-- ==== Sys2Proof/Word.lean ====
section
/-! DEFINITION. The machine's word types: the 32-bit registers and bus words, the 16-bit fields and the bytes of the digit buffer (spec/10_state.md R24, R25, R26). -/

namespace Sys2Proof

/-- A bus word, a command word or a 32-bit register (R26, R63). -/
abbrev Word := BitVec 32

/-- A 16-bit field: `NBLK`, `BLKSEL`, `IMM16`, a block's `CNT` (R25, R37, R38, R91). -/
abbrev Half := BitVec 16

/-- One byte of the digit buffer (R24). -/
abbrev Byte := BitVec 8

end Sys2Proof
end

