-- ==== Sys2Proof/Syntax.lean ====
section
/-! DEFINITION. The five commands of the opcode table (spec/30_encoding.md R91, R94), each with the fields its mask leaves free. -/

namespace Sys2Proof

/-- One constructor per row of spec/opcode_table.json. A sign is true for minus (R10); a count is
the number `IMM16` holds (R92). -/
inductive Instr where
  /-- XGCD, the extended gcd of A and B (R112). -/
  | xgcd (sa sb : Bool)
  /-- MODINV, the inverse of A modulo C (R132). -/
  | modinv (sa sc : Bool)
  /-- MODEXP, A to the power B modulo C (R147). -/
  | modexp (sa sb sc : Bool)
  /-- MRPRIME, the Miller-Rabin test of A in `rounds` rounds (R167). -/
  | mrprime (sa : Bool) (rounds : Nat)
  /-- PACK, the greedy packing of `ngrp` groups under the modulus C (R187). -/
  | pack (sc : Bool) (ngrp : Nat)
deriving DecidableEq, Repr

end Sys2Proof
end

