-- ==== Sys2Proof/WellFormed.lean ====
section
/-! DEFINITION. When a command has a word: its count fits the immediate (spec/30_encoding.md R92, R100: "rounds and ngrp are in [0, 65535]"). -/

namespace Sys2Proof

/-- A count fits the 16 bits of `IMM16` (R92). -/
def fitsImm16 (n : Nat) : Bool := decide (n < 2 ^ 16)

/-- A command that a 32-bit word can hold. -/
def Instr.wellFormed : Instr → Bool
  | .xgcd _ _ => true
  | .modinv _ _ => true
  | .modexp _ _ _ => true
  | .mrprime _ rounds => fitsImm16 rounds
  | .pack _ ngrp => fitsImm16 ngrp

end Sys2Proof
end

