-- ==== Sys2Proof/Decode.lean ====
section
/-! DEFINITION. The command decoder, total on every 32-bit word (spec/30_encoding.md R93), and after it the encoder, from the same field table (R91) and opcode map (R94). -/

namespace Sys2Proof

/-- Why a word is ILLEGAL (R95). The hardware reports one code for all of them; the names are the
model's, in the order of the decoder's tests. -/
inductive IllegalWord where
  /-- A bit of `RSV`, `[15:11]`, is 1. -/
  | reservedBits
  /-- `OPC` is none of 1 to 5. -/
  | unassignedOpcode
  /-- The sign bit of an operand the command does not read is 1. -/
  | unusedSign
  /-- `IMM16` is not 0 in a command that has no immediate. -/
  | unusedImmediate
deriving DecidableEq, Repr

/-- The outcome of decoding (R93): one of the five commands, or ILLEGAL. -/
inductive Decoded where
  | instr (i : Instr)
  | illegal (why : IllegalWord)
deriving DecidableEq, Repr

/-- `OPC`, `c[7:0]` (R91). -/
def fieldOpc (c : Word) : Byte := c.extractLsb' 0 8
/-- `SA`, `c[8]` (R91). -/
def fieldSa (c : Word) : Bool := c.getLsbD 8
/-- `SB`, `c[9]` (R91). -/
def fieldSb (c : Word) : Bool := c.getLsbD 9
/-- `SC`, `c[10]` (R91). -/
def fieldSc (c : Word) : Bool := c.getLsbD 10
/-- `RSV`, `c[15:11]` (R91). -/
def fieldRsv (c : Word) : BitVec 5 := c.extractLsb' 11 5
/-- `IMM16`, `c[31:16]` (R91). -/
def fieldImm (c : Word) : Half := c.extractLsb' 16 16

/-- The decoder (R93). It depends on nothing but the word. -/
def decode (c : Word) : Decoded :=
  if fieldRsv c ≠ 0 then .illegal .reservedBits
  else if fieldOpc c = 0x01 then
    if fieldSc c then .illegal .unusedSign
    else if fieldImm c ≠ 0 then .illegal .unusedImmediate
    else .instr (.xgcd (fieldSa c) (fieldSb c))
  else if fieldOpc c = 0x02 then
    if fieldSb c then .illegal .unusedSign
    else if fieldImm c ≠ 0 then .illegal .unusedImmediate
    else .instr (.modinv (fieldSa c) (fieldSc c))
  else if fieldOpc c = 0x03 then
    if fieldImm c ≠ 0 then .illegal .unusedImmediate
    else .instr (.modexp (fieldSa c) (fieldSb c) (fieldSc c))
  else if fieldOpc c = 0x04 then
    if fieldSb c || fieldSc c then .illegal .unusedSign
    else .instr (.mrprime (fieldSa c) (fieldImm c).toNat)
  else if fieldOpc c = 0x05 then
    if fieldSa c || fieldSb c then .illegal .unusedSign
    else .instr (.pack (fieldSc c) (fieldImm c).toNat)
  else .illegal .unassignedOpcode

/-- A word is legal when it decodes to a command (R93). -/
def isLegal (c : Word) : Bool :=
  match decode c with
  | .instr _ => true
  | .illegal _ => false

/-- The word with the given fields: the pattern `iiiiiiiiiiiiiiii00000cbaoooooooo` of R91, most
significant bit first. -/
def commandWord (opc : Byte) (sa sb sc : Bool) (imm : Half) : Word :=
  imm ++ (0 : BitVec 5) ++ BitVec.ofBool sc ++ BitVec.ofBool sb ++ BitVec.ofBool sa ++ opc

/-- The encoder (R94, R100). -/
def encode : Instr → Word
  | .xgcd sa sb => commandWord 0x01 sa sb false 0
  | .modinv sa sc => commandWord 0x02 sa false sc 0
  | .modexp sa sb sc => commandWord 0x03 sa sb sc 0
  | .mrprime sa rounds => commandWord 0x04 sa false false (BitVec.ofNat 16 rounds)
  | .pack sc ngrp => commandWord 0x05 false false sc (BitVec.ofNat 16 ngrp)

/-- A row of the opcode map (R94): the word's bits under `mask` are `pattern`. -/
structure OpcodeRow where
  mnemonic : String
  pattern : Word
  mask : Word
deriving DecidableEq, Repr

/-- The opcode map of R94, its `match` and `mask` columns. -/
def opcodeTable : List OpcodeRow :=
  [⟨"XGCD", 0x00000001, 0xFFFFFCFF⟩, ⟨"MODINV", 0x00000002, 0xFFFFFAFF⟩,
   ⟨"MODEXP", 0x00000003, 0xFFFFF8FF⟩, ⟨"MRPRIME", 0x00000004, 0x0000FEFF⟩,
   ⟨"PACK", 0x00000005, 0x0000FBFF⟩]

/-- A word is of a row (R93: `(c AND mask) = match`). -/
def OpcodeRow.admits (r : OpcodeRow) (c : Word) : Bool := c &&& r.mask == r.pattern

/-- The mnemonic of a command, as the opcode map spells it (R94). -/
def Instr.mnemonic : Instr → String
  | .xgcd _ _ => "XGCD"
  | .modinv _ _ => "MODINV"
  | .modexp _ _ _ => "MODEXP"
  | .mrprime _ _ => "MRPRIME"
  | .pack _ _ => "PACK"

/-- The opcode number of a command (R94). -/
def Instr.opcode : Instr → Byte
  | .xgcd _ _ => 0x01
  | .modinv _ _ => 0x02
  | .modexp _ _ _ => 0x03
  | .mrprime _ _ => 0x04
  | .pack _ _ => 0x05

/-- The command word whose low `nbits` bits are `w`, the rest 0. One command is one 32-bit word
(R90), so no other word follows it. -/
def tableWord (nbits w : Nat) : Word := BitVec.ofNat 32 (w % 2 ^ nbits)

/-- The command this decoder reads from the word of the opcode table numbered `w`. -/
def decodeTableWord (nbits w : Nat) : Option Instr :=
  match decode (tableWord nbits w) with
  | .instr i => some i
  | .illegal _ => none

end Sys2Proof
end

