-- ==== Sys2Proof/Config.lean ====
section
/-! DEFINITION. What one implementation fixes (the parameters `W` and `LMAX`, spec/00_scope.md R5, R6, R7) and the free values of spec/93_implementation_defined.md (U10 to U15). -/

namespace Sys2Proof

/-- The two OPEN parameters. A machine's pair stands in its State, so that every theorem over all
states holds for every pair; no step changes it (R35, R263). -/
structure Params where
  /-- `W`, the width in bits of every operand and result magnitude (R5). -/
  width : Nat
  /-- `LMAX`, the capacity of the digit buffer in groups and of the block table in entries (R6). -/
  lmax : Nat
deriving DecidableEq, Repr

/-- `NW`, the number of 32-bit words in one operand slot (R7). -/
def Params.nw (p : Params) : Nat := p.width / 32

/-- `MAXMAG`, the largest representable magnitude (R7). -/
def Params.maxMag (p : Params) : Nat := 2 ^ p.width - 1

/-- The constraints the spec puts on the parameters (R5, R6). -/
abbrev Params.Legal (p : Params) : Prop :=
  p.width % 32 = 0 ∧ 32 ≤ p.width ∧ p.width ≤ 4096 ∧
    p.lmax % 4 = 0 ∧ 4 ≤ p.lmax ∧ p.lmax ≤ 4096

namespace Config

/-- The parameters of the programs of spec/95_test_vectors.md (`W = 64`, `LMAX = 256`), which
State.reset takes. DESIGN CHOICE, log 1: the spec leaves both open. -/
def params : Params := ⟨64, 256⟩

/-- A free `W`-bit magnitude (to be reduced modulo `2^W`): an operand or result register the spec
leaves unspecified (U10, U11). It has no value in Lean: log 6. -/
opaque freeMag : Nat → Nat

/-- A free byte: a digit the spec leaves unspecified (U10), log 6. -/
opaque freeByte : Nat → Byte

/-- Free read data: a read whose data the spec leaves unspecified (U12, U13, U14), log 6. -/
opaque freeWord : Nat → Word

end Config
end Sys2Proof
end

