-- ==== Sys2Proof/Machine/State.lean ====
section
/-! DEFINITION. The state of the block (spec/10_state.md R20 to R44), the environment's script, the reasons a step can stop, and the state right after hard reset (R43). -/

namespace Sys2Proof.Machine

/-- `STATUS.ERR` (spec/60_exceptions.md R231); codes 4 to 15 are never produced. -/
inductive ErrKind where
  | ok
  | invalidArgument
  | noInverse
  | illegalCommand
deriving DecidableEq, Repr

/-- `STATUS.SUB` (R232); codes 7 to 15 are never produced. -/
inductive SubCause where
  | none
  | nonpositiveModulus
  | negativeExponent
  | modulusTooSmall
  | badLength
  | badDigit
  | groupTooLarge
deriving DecidableEq, Repr

/-- The fields of `STATUS` (R27). Its reserved bits read 0 and no write reaches them, so they hold
nothing. -/
structure Status where
  busy : Bool
  done : Bool
  prime : Bool
  err : ErrKind
  sub : SubCause
  sx : Bool
  sy : Bool
  ovr : Bool
deriving DecidableEq, Repr

/-- One entry of the block table (R25). -/
structure Block where
  /-- `VAL`, a `W`-bit magnitude. -/
  val : Nat
  /-- `CNT`, the letter count. -/
  cnt : Half
deriving DecidableEq, Repr

/-- The digit buffer's bytes, keyed by the group's index `k` (R24): strictly rising keys, and no cell
equal to what an unlisted byte reads as. -/
abbrev Memory := List Host.Cell

/-- The response of a bus access (R62). -/
inductive Resp where
  | okay
  | error
deriving DecidableEq, Repr

/-- The reply the bus last gave (R60: `bus_ready`, `bus_error`, `bus_rdata`). -/
inductive BusReply where
  /-- No access has been answered since reset. -/
  | idle
  | read (resp : Resp) (data : Word)
  | write (resp : Resp)
deriving DecidableEq, Repr

/-- One move of an agent of R13, or a wait of a host program (R99). A script of them, in State, says
which agent moves next (log 2). -/
inductive Input where
  /-- The engine takes its step, if it has one (R42). -/
  | engine
  /-- `MemRead(off, 4)` (R62). -/
  | read (off : BitVec 13)
  /-- `MemWrite(off, 4, v)` with the byte strobes of R63. -/
  | write (off : BitVec 13) (strobes : BitVec 4) (data : Word)
  /-- The randomness source offers its next word (R81). -/
  | rngOffer (w : Nat)
  /-- `rst_n` falls (R260). -/
  | rstAssert
  /-- `rst_n` has risen again (R260). -/
  | rstRelease
  /-- WAIT (R99): the engine moves until `BUSY = 0`, then the host reads `STATUS`. -/
  | wait
  /-- WAITIRQ (R99): the engine moves until `irq = 1`. -/
  | waitIrq
deriving DecidableEq, Repr

/-- The machine has no fault: "The block has no synchronous exception in the sense of a transfer of
control" (R230). A failing command is a completion with a code in `STATUS` (R236), a bad access an
`ERROR` reply (R249): both are next states. -/
inductive Fault where
deriving DecidableEq, Repr

/-- Why the model gives no next state. -/
inductive Refusal where
  /-- An instruction without a meaning yet, raised only by an arm of exec; safe. No arm raises it. -/
  | notModelled (mnemonic : String)
  /-- A bus access, or a host's WAIT, while `rst_n = 0`: raised by the host's moves; safe.
  spec/93_implementation_defined.md U23: "refuse: the host must not access the window; the block
  gives no response". -/
  | accessInReset
deriving DecidableEq, Repr

/-- Everything the spec gives the machine, and the environment that drives it. -/
structure State where
  /-- `W` and `LMAX` (R5, R6); no step changes them. -/
  params : Params
  /-- `OPA` (R22). -/
  opa : Nat
  /-- `OPB` (R22). -/
  opb : Nat
  /-- `OPC` (R22). -/
  opc : Nat
  /-- `RES0` (R23). -/
  res0 : Nat
  /-- `RES1` (R23). -/
  res1 : Nat
  /-- `RES2` (R23). -/
  res2 : Nat
  /-- `DIG` (R24). -/
  dig : Memory
  /-- The defined entries of `BLK`, from entry 0 on (R25); an entry not listed is unspecified. -/
  blk : List Block
  /-- `CMD` (R26). -/
  cmd : Word
  /-- `STATUS` (R27). -/
  status : Status
  /-- `CTRL.IE` (R34). -/
  ie : Bool
  /-- `NBLK` (R37). -/
  nblk : Half
  /-- `BLKSEL` (R38). -/
  blksel : Half
  /-- `RNGCNT` (R40). -/
  rngcnt : Word
  /-- The round index of a running MRPRIME: the words it has drawn, each of a round that passed
  (R41 a). -/
  mrDrawn : Nat
  /-- The words the randomness source offers and nobody has taken, the next one first (R81). -/
  rng : List Nat
  /-- `RPOS`, the number of words taken from the stream (R41 b). -/
  rpos : Nat
  /-- The level of `rst_n` (R260). -/
  rstN : Bool
  /-- The last reply on the bus (R60). -/
  bus : BusReply
  /-- The MODEL's own: the moves to come (log 2). -/
  inputs : List Input
  /-- The MODEL's own: how many free values have been used (log 6). -/
  freeCtr : Nat
deriving DecidableEq, Repr

/-- Every field of `STATUS` at its reset value (R27, R43). -/
def Status.reset : Status :=
  { busy := false, done := false, prime := false, err := .ok, sub := .none,
    sx := false, sy := false, ovr := false }

/-- The machine right after hard reset (R43). The values the spec gives are `CMD`, `STATUS`, `IE`,
`NBLK`, `BLKSEL`, `RNGCNT`; the operand and result registers and the digits are unspecified there
and are 0 here (DESIGN CHOICE, log 3, 4); the parameters are log 1; the randomness source has
offered nothing (log 5). -/
def State.reset : State :=
  { params := Config.params
    opa := 0, opb := 0, opc := 0
    res0 := 0, res1 := 0, res2 := 0
    dig := [], blk := []
    cmd := 0, status := Status.reset, ie := false
    nblk := 0, blksel := 0, rngcnt := 0
    mrDrawn := 0, rng := [], rpos := 0
    rstN := true, bus := .idle, inputs := [], freeCtr := 0 }

end Sys2Proof.Machine
end

