-- ==== Sys2Proof/Machine/Flags.lean ====
section
/-! DEFINITION. Everything `STATUS` and the derived wires do: the codes (spec/60_exceptions.md R231, R232), the layout (spec/10_state.md R27), what acceptance and completion write (R235, R236), the write-one-to-clear bits, and `irq` (R243). -/

namespace Sys2Proof.Machine

/-- The code of an error kind in `STATUS[7:4]` (R231). -/
def ErrKind.code : ErrKind → BitVec 4
  | .ok => 0
  | .invalidArgument => 1
  | .noInverse => 2
  | .illegalCommand => 3

/-- The code of a sub-cause in `STATUS[11:8]` (R232). -/
def SubCause.code : SubCause → BitVec 4
  | .none => 0
  | .nonpositiveModulus => 1
  | .negativeExponent => 2
  | .modulusTooSmall => 3
  | .badLength => 4
  | .badDigit => 5
  | .groupTooLarge => 6

/-- The word a read of `STATUS` returns (R27): `[31:15]` zero, `OVR`, `SY`, `SX`, `SUB`, `ERR`, zero,
`PRIME`, `DONE`, `BUSY`. -/
def Status.toWord (t : Status) : Word :=
  (0 : BitVec 17) ++ BitVec.ofBool t.ovr ++ BitVec.ofBool t.sy ++ BitVec.ofBool t.sx ++
    t.sub.code ++ t.err.code ++ (0 : BitVec 1) ++
    BitVec.ofBool t.prime ++ BitVec.ofBool t.done ++ BitVec.ofBool t.busy

/-- A host write of `v` to `STATUS` (R27): bit 1 clears `DONE`, bit 14 clears `OVR`, nothing else. -/
def Status.writeClear (t : Status) (v : Word) : Status :=
  { t with done := t.done && !v.getLsbD 1, ovr := t.ovr && !v.getLsbD 14 }

/-- `STATUS` after the acceptance of a command word (R235); `OVR` is not touched (R33). -/
def Status.accepted (t : Status) : Status :=
  { busy := true, done := false, prime := false, err := .ok, sub := .none,
    sx := false, sy := false, ovr := t.ovr }

/-- `STATUS` when a host write was dropped because the block was busy (R33, R72). -/
def Status.overrun (t : Status) : Status := { t with ovr := true }

/-- What a command's rule assigns before it completes (R236), each 0 if the rule assigns none. -/
structure Results where
  v0 : Nat := 0
  v1 : Nat := 0
  v2 : Nat := 0
  prime : Bool := false
  sx : Bool := false
  sy : Bool := false
deriving DecidableEq, Repr

/-- The values that survive `complete(err, sub)` (R236): all of them when `err = OK`, zeros else. -/
def Results.kept (err : ErrKind) (r : Results) : Results :=
  match err with
  | .ok => r
  | _ => {}

/-- `STATUS` after `complete(err, sub)` (R236); `OVR` is not touched (R33). -/
def Status.completed (t : Status) (err : ErrKind) (sub : SubCause) (r : Results) : Status :=
  { busy := false, done := true, prime := (r.kept err).prime, err := err, sub := sub,
    sx := (r.kept err).sx, sy := (r.kept err).sy, ovr := t.ovr }

/-- `irq = CTRL.IE AND STATUS.DONE`, a level (R243). -/
def State.irq (s : State) : Bool := s.ie && s.status.done

/-- The word a read of `CTRL` returns (R34): `IE` in bit 0, `SRST` and the rest 0. -/
def ctrlWord (ie : Bool) : Word := (BitVec.ofBool ie).setWidth 32

/-- `PARAM` (R35): `LMAX` in `[31:16]`, `NW` in `[7:0]`. -/
def paramWord (p : Params) : Word :=
  BitVec.ofNat 16 p.lmax ++ (0 : BitVec 8) ++ BitVec.ofNat 8 p.nw

/-- `VERSION` (R36). -/
def versionWord : Word := 0x00010000

end Sys2Proof.Machine
end

