-- ==== Sys2Proof/Machine/Ops.lean ====
section
/-! DEFINITION. The named operations over registers, the digit buffer and the whole state: slot words (spec/20_memory.md R70), digit bytes and words (R71), acceptance (spec/60_exceptions.md R235), completion (R236) and the two resets (spec/70_reset_and_hazards.md R260, R262). -/

namespace Sys2Proof.Machine

/-! ### Slot words (R11, R70) -/

/-- Word `i` of a `W`-bit register: bits `[32*i+31 : 32*i]` (R70). -/
def slotWord (x i : Nat) : Word := BitVec.ofNat 32 (x / 2 ^ (32 * i))

/-- A register with word `i` replaced, its other bits as they were (R70). -/
def putSlotWord (x i : Nat) (v : Word) : Nat :=
  x % 2 ^ (32 * i) + v.toNat * 2 ^ (32 * i) + x / 2 ^ (32 * (i + 1)) * 2 ^ (32 * (i + 1))

/-! ### The digit buffer (R24, R71) -/

/-- What a byte that is not listed reads as. DESIGN CHOICE, log 4: the spec leaves the digits
unspecified after reset. -/
def Memory.unlisted : Byte := 0

/-- The cells rise strictly from `lo` on, and none holds the unlisted value. -/
def Memory.wfFrom : Nat → Memory → Bool
  | _, [] => true
  | lo, (k, b) :: m => decide (lo ≤ k) && (b != Memory.unlisted) && Memory.wfFrom (k + 1) m

/-- The canonical form: equal buffers are equal lists. -/
def Memory.wf (m : Memory) : Bool := Memory.wfFrom 0 m

/-- `DIG[k]`. -/
def Memory.readByte : Memory → Nat → Byte
  | [], _ => Memory.unlisted
  | (a, b) :: m, k => if a = k then b else Memory.readByte m k

/-- A cell put before a buffer, unless it holds the unlisted value. -/
def Memory.consCell (k : Nat) (v : Byte) (m : Memory) : Memory :=
  if v = Memory.unlisted then m else (k, v) :: m

/-- `DIG[k] <- v`, keeping the canonical form. -/
def Memory.writeByte : Memory → Nat → Byte → Memory
  | [], k, v => Memory.consCell k v []
  | (a, b) :: m, k, v =>
    if k < a then Memory.consCell k v ((a, b) :: m)
    else if k = a then Memory.consCell k v m
    else (a, b) :: Memory.writeByte m k v

/-- Byte `j` of a word (R71, R74): bits `[8*j+7 : 8*j]`. -/
def wordByte (v : Word) (j : Nat) : Byte := v.extractLsb' (8 * j) 8

/-- The word at offset `0x1000 + 4*t`: group `4*t` is its least significant byte (R71). -/
def Memory.readWord (m : Memory) (t : Nat) : Word :=
  m.readByte (4 * t + 3) ++ m.readByte (4 * t + 2) ++ m.readByte (4 * t + 1) ++ m.readByte (4 * t)

/-- A write of the word at offset `0x1000 + 4*t` replaces its four bytes (R71). -/
def Memory.writeWord (m : Memory) (t : Nat) (v : Word) : Memory :=
  (((m.writeByte (4 * t) (wordByte v 0)).writeByte (4 * t + 1) (wordByte v 1)).writeByte
    (4 * t + 2) (wordByte v 2)).writeByte (4 * t + 3) (wordByte v 3)

/-- A buffer of `n` bytes from group `k` on, each given by its index. -/
def Memory.fill (f : Nat → Byte) : Nat → Nat → Memory
  | _, 0 => []
  | k, n + 1 => Memory.consCell k (f k) (Memory.fill f (k + 1) n)

/-! ### Acceptance and completion -/

/-- Acceptance of the command word `c` (R235): `CMD` latches it, `BUSY` rises, the result flags
fall, and nothing else changes. The engine starts with no word drawn. -/
def State.accept (s : State) (c : Word) : State :=
  { s with cmd := c, status := s.status.accepted, mrDrawn := 0 }

/-- Completion, `complete(err, sub)` (R236): one atomic step that writes every result, the error code
and `BUSY`, `DONE`. It is this block's analogue of taking an exception: nothing is saved and nothing
is entered (R230), and there is nothing to return from (R241). -/
def State.complete (s : State) (err : ErrKind) (sub : SubCause) (r : Results) : State :=
  { s with
    res0 := (r.kept err).v0
    res1 := (r.kept err).v1
    res2 := (r.kept err).v2
    status := s.status.completed err sub r
    mrDrawn := 0 }

/-- How a command's pseudocode fails (R231, R232). -/
structure Failure where
  err : ErrKind
  sub : SubCause
deriving DecidableEq, Repr

/-- `INVALID_ARGUMENT` with a sub-cause. -/
def Failure.invalid (sub : SubCause) : Failure := ⟨.invalidArgument, sub⟩

/-- `NO_INVERSE` (R231). -/
def Failure.noInverse : Failure := ⟨.noInverse, .none⟩

/-- Completion of a command whose function gives a value for `RES0` or a failure. -/
def State.completeWith (s : State) : Except Failure Nat → State
  | .ok v => s.complete .ok .none { v0 := v }
  | .error f => s.complete f.err f.sub {}

/-- Completion of an illegal command word (R95, R237): `ERR = ILLEGAL_COMMAND`, `SUB = 0`, all results
0, and no other effect. -/
def State.completeIllegal (s : State) : State := s.complete .illegalCommand .none {}

/-- PACK's completion (R187, R236): beside the common writes, `NBLK` and the block table. On failure
there are no blocks: `NBLK <- 0`, and every entry is unspecified. -/
def State.completePack (s : State) : Except Failure (List (Nat × Nat)) → State
  | .ok bs =>
    { s.complete .ok .none {} with
      nblk := BitVec.ofNat 16 bs.length
      blk := bs.map fun b => ⟨b.1, BitVec.ofNat 16 b.2⟩ }
  | .error f => { s.complete f.err f.sub {} with nblk := 0, blk := [] }

/-! ### Reset -/

/-- A free `W`-bit magnitude (log 6). -/
def State.freeMag (s : State) (k : Nat) : Nat :=
  Config.freeMag (s.freeCtr + k) % 2 ^ s.params.width

/-- Soft reset (R262, R43): the control registers take their reset values, the engine is idle with
any running command abandoned (R261), the result registers and the block table are unspecified; the
operand registers and the digits keep their values, and so does what no reset touches (R263). -/
def State.softReset (s : State) : State :=
  { s with
    res0 := s.freeMag 0, res1 := s.freeMag 1, res2 := s.freeMag 2
    blk := []
    cmd := 0, status := Status.reset, ie := false
    nblk := 0, blksel := 0, rngcnt := 0
    mrDrawn := 0
    freeCtr := s.freeCtr + 3 }

/-- `rst_n` falls (R260): as soft reset (R262: "It differs from hard reset in one thing"), and the
operand registers and the digits are unspecified too (R43). No access is answered while `rst_n = 0`. -/
def State.hardReset (s : State) : State :=
  { s.softReset with
    opa := s.freeMag 3, opb := s.freeMag 4, opc := s.freeMag 5
    dig := Memory.fill (fun k => Config.freeByte (s.freeCtr + k)) 0 s.params.lmax
    rstN := false
    bus := .idle
    freeCtr := s.freeCtr + 6 + s.params.lmax }

/-- `rst_n` has risen and the block may be accessed (R260, log 9). -/
def State.releaseReset (s : State) : State := { s with rstN := true }

/-! ### Small updates -/

/-- The bus gives a reply (R62). -/
def State.reply (s : State) (r : BusReply) : State := { s with bus := r }

/-- A host write was dropped (R33, R72). -/
def State.overrun (s : State) : State := { s with status := s.status.overrun }

/-- The script that remains. -/
def State.withInputs (s : State) (l : List Input) : State := { s with inputs := l }

/-- The randomness source offers a word, read as an unsigned `W`-bit number (R81). -/
def State.offer (s : State) (w : Nat) : State :=
  { s with rng := s.rng ++ [w % 2 ^ s.params.width] }

/-- The engine takes `k` words of the stream (R41 b, R81). -/
def State.takeWords (s : State) (k : Nat) : State :=
  { s with rng := s.rng.drop k, rpos := s.rpos + k }

end Sys2Proof.Machine
end

