-- ==== Sys2Proof/Machine/Operands.lean ====
section
/-! DEFINITION. The operand forms of the commands: sign and magnitude (spec/00_scope.md R10, spec/30_encoding.md R92) and the groups of the digit buffer (spec/44_pack.md R187). -/

namespace Sys2Proof.Machine

/-- `val(S, M)` (R10): minus the magnitude when the sign bit is 1. -/
def signedVal (sign : Bool) (mag : Nat) : Int := if sign then -(mag : Int) else (mag : Int)

/-- `A = val(SA, OPA)` (R10, R92). -/
def State.operandA (s : State) (sa : Bool) : Int := signedVal sa s.opa
/-- `B = val(SB, OPB)` (R10, R92). -/
def State.operandB (s : State) (sb : Bool) : Int := signedVal sb s.opb
/-- `C = val(SC, OPC)` (R10, R92). -/
def State.operandC (s : State) (sc : Bool) : Int := signedVal sc s.opc

/-- `[DIG[0], ..., DIG[n-1]]` as numbers (R187). -/
def State.groups (s : State) (n : Nat) : List Nat :=
  (List.range n).map fun k => (s.dig.readByte k).toNat

end Sys2Proof.Machine
end

