-- ==== Sys2Proof/Machine/Modexp.lean ====
section
/-! DEFINITION. The fast modular exponentiation unit (spec/42_modexp.md): the function of R146, its trace (R151), and the meaning of MODEXP (R147). -/

namespace Sys2Proof.Machine

/-- R146's loop on fuel: right to left, reducing after every product. -/
def modexpLoop (m : Nat) : Nat → Nat → Nat → Nat → Nat
  | 0, res, _, _ => res
  | f + 1, res, base, e =>
    if e = 0 then res
    else modexpLoop m f (if e % 2 = 1 then res * base % m else res) (base * base % m) (e / 2)

/-- The loop on a reduced base. The fuel is enough, because each iteration halves the exponent. -/
def powMod (m b e : Nat) : Nat := modexpLoop m e 1 (b % m) e

/-- The loop's states `(res, base, e)` after each iteration (R151). -/
def modexpTrace (m : Nat) : Nat → Nat → Nat → Nat → List (Nat × Nat × Nat)
  | 0, _, _, _ => []
  | f + 1, res, base, e =>
    if e = 0 then []
    else
      let res' := if e % 2 = 1 then res * base % m else res
      (res', base * base % m, e / 2) :: modexpTrace m f res' (base * base % m) (e / 2)

/-- `modexp(b, e, m)` (R146): the modulus is tested before the exponent (R239), and a negative base is
reduced to its residue in `[0, m)`. -/
def modexp (b e m : Int) : Except Failure Nat :=
  if m ≤ 0 then .error (.invalid .nonpositiveModulus)
  else if e < 0 then .error (.invalid .negativeExponent)
  else .ok (powMod m.toNat (b.fmod m).toNat e.toNat)

/-- MODEXP (R147). -/
def execModexp (sa sb sc : Bool) (s : State) : Host.Outcome State Fault Refusal :=
  .next (s.completeWith (modexp (s.operandA sa) (s.operandB sb) (s.operandC sc)))

end Sys2Proof.Machine
end

