-- ==== Sys2Proof/Machine/Mrprime.lean ====
section
/-! DEFINITION. The Miller-Rabin primality tester (spec/43_mrprime.md): the parts of a round (R168 to R170), the function of R166 over a stream and over the words offered so far, and the meaning of MRPRIME (R167). -/

namespace Sys2Proof.Machine

/-- The trailing zeros `r` and odd part `d` of a positive number, on fuel (R168). -/
def oddPartFuel : Nat → Nat → Nat × Nat
  | 0, m => (0, m)
  | f + 1, m =>
    if m % 2 = 0 then
      match oddPartFuel f (m / 2) with
      | (r, d) => (r + 1, d)
    else (0, m)

/-- `(r, d)` with `n - 1 = 2^r * d`, `d` odd (R168). -/
def decomposition (n : Nat) : Nat × Nat := oddPartFuel (n - 1) (n - 1)

/-- The base of a round from a word of the stream (R169). -/
def roundBase (n w : Nat) : Nat := 2 + w % (n - 3)

/-- Squaring `x` up to `k` times produces `n - 1` (R170). -/
def squaringsHit (n : Nat) : Nat → Nat → Bool
  | 0, _ => false
  | k + 1, x => x * x % n == n - 1 || squaringsHit n k (x * x % n)

/-- One round (R170). -/
def roundPasses (n r d a : Nat) : Bool :=
  powMod n a d == 1 || powMod n a d == n - 1 || squaringsHit n (r - 1) (powMod n a d)

/-- The round of `n` with the word `w`: its base passes (R169, R170). -/
def wordPasses (n w : Nat) : Bool :=
  roundPasses n (decomposition n).1 (decomposition n).2 (roundBase n w)

/-- R166's deterministic answer, if there is one: no word is drawn then (R171 a). -/
def mrDeterministic (n : Int) : Option Bool :=
  if n < 2 then some false
  else if n = 2 ∨ n = 3 then some true
  else if n % 2 = 0 then some false
  else none

/-- R166's rounds on the stream `draw` from position `pos` on: the verdict and the draws made. -/
def mrRoundsStream (n : Nat) (draw : Nat → Nat) : Nat → Nat → Bool × Nat
  | 0, _ => (true, 0)
  | k + 1, pos =>
    if wordPasses n (draw pos) then
      match mrRoundsStream n draw k (pos + 1) with
      | (v, j) => (v, j + 1)
    else (false, 1)

/-- `mrprime(n, rounds, draw)` (R166), the stream read from position `pos` on. -/
def mrprimeStream (n : Int) (rounds : Nat) (draw : Nat → Nat) (pos : Nat) : Bool × Nat :=
  match mrDeterministic n with
  | some v => (v, 0)
  | none => mrRoundsStream n.toNat draw rounds pos

/-- How far MRPRIME comes with the words at hand: the verdict, if they suffice, and the draws. -/
structure MrRun where
  verdict : Option Bool
  draws : Nat
deriving DecidableEq, Repr

/-- R166's rounds on the words offered. No verdict: the next round waits for a word
(spec/70_reset_and_hazards.md R276). -/
def mrRounds (n : Nat) : Nat → List Nat → MrRun
  | 0, _ => ⟨some true, 0⟩
  | _ + 1, [] => ⟨none, 0⟩
  | k + 1, w :: ws =>
    if wordPasses n w then
      match mrRounds n k ws with
      | ⟨v, j⟩ => ⟨v, j + 1⟩
    else ⟨some false, 1⟩

/-- MRPRIME's function on the words offered (R166). -/
def mrprime (n : Int) (rounds : Nat) (words : List Nat) : MrRun :=
  match mrDeterministic n with
  | some v => ⟨some v, 0⟩
  | none => mrRounds n.toNat rounds words

/-- What MRPRIME assigns (R167). -/
def mrResults (v : Bool) : Results := { v0 := v.toNat, prime := v }

/-- The engine has drawn words but the next round has none (R81, R175, R276): they are consumed,
`BUSY` stays 1, and nothing else changes. -/
def State.mrWait (s : State) (draws : Nat) : State :=
  { s.takeWords draws with mrDrawn := s.mrDrawn + draws }

/-- MRPRIME's completion (R167, R176): `RNGCNT` advances by all the words this command drew. -/
def State.mrComplete (s : State) (v : Bool) (draws : Nat) : State :=
  { (s.takeWords draws).complete .ok .none (mrResults v) with
    rngcnt := s.rngcnt + BitVec.ofNat 32 (s.mrDrawn + draws) }

/-- MRPRIME (R167). The rounds that already passed are not run again (R166, R175). -/
def execMrprime (sa : Bool) (rounds : Nat) (s : State) : Host.Outcome State Fault Refusal :=
  match mrprime (s.operandA sa) (rounds - s.mrDrawn) s.rng with
  | ⟨some v, draws⟩ => .next (s.mrComplete v draws)
  | ⟨none, draws⟩ => .next (s.mrWait draws)

end Sys2Proof.Machine
end

