-- ==== Sys2Proof/Machine/Bus.lean ====
section
/-! DEFINITION. The register window (spec/20_memory.md): the offset map (R69 to R71), reads (R67, R68, R73), writes (R66, R72), and the command register's acceptance (R235). -/

namespace Sys2Proof.Machine

/-- What a mapped offset names (R69): a register, word `i` of a slot, or word `t` of the digits. -/
inductive Loc where
  | cmd
  | status
  | ctrl
  | nblk
  | blksel
  | blkcnt
  | rngcnt
  | param
  | version
  | opa (i : Nat)
  | opb (i : Nat)
  | opc (i : Nat)
  | res0 (i : Nat)
  | res1 (i : Nat)
  | res2 (i : Nat)
  | blkval (i : Nat)
  | dig (t : Nat)
deriving DecidableEq, Repr

/-- The control registers, `0x000` to `0x020`, by word index (R69). -/
def controlLoc : Nat → Option Loc
  | 0 => some .cmd
  | 1 => some .status
  | 2 => some .ctrl
  | 3 => some .nblk
  | 4 => some .blksel
  | 5 => some .blkcnt
  | 6 => some .rngcnt
  | 7 => some .param
  | 8 => some .version
  | _ => none

/-- The word of a slot of 512 bytes from `base` on (R70): only the first `NW` words are mapped. -/
def slotLoc (p : Params) (base : Nat) (mk : Nat → Loc) (off : Nat) : Option Loc :=
  if off < base + 4 * p.nw then some (mk ((off - base) / 4)) else none

/-- The offset map (R69), for aligned offsets. -/
def locate (p : Params) (off : Nat) : Option Loc :=
  if off < 0x200 then controlLoc (off / 4)
  else if off < 0x400 then slotLoc p 0x200 .opa off
  else if off < 0x600 then slotLoc p 0x400 .opb off
  else if off < 0x800 then slotLoc p 0x600 .opc off
  else if off < 0xA00 then slotLoc p 0x800 .res0 off
  else if off < 0xC00 then slotLoc p 0xA00 .res1 off
  else if off < 0xE00 then slotLoc p 0xC00 .res2 off
  else if off < 0x1000 then slotLoc p 0xE00 .blkval off
  else if off < 0x1000 + p.lmax then some (.dig ((off - 0x1000) / 4))
  else none

/-- What an access at an offset reaches: nothing when it is misaligned (R64) or unmapped (R65). -/
def accessLoc (p : Params) (off : BitVec 13) : Option Loc :=
  if off.toNat % 4 = 0 then locate p off.toNat else none

/-- A PACK is running (R37, R39, R73). -/
def State.packRunning (s : State) : Bool :=
  s.status.busy &&
    match decode s.cmd with
    | .instr (.pack _ _) => true
    | _ => false

/-- The entry the views show (R39): none when `BLKSEL >= NBLK` or while a PACK is running. -/
def State.viewedBlock (s : State) : Option Block :=
  if s.packRunning then none
  else if s.blksel.toNat < s.nblk.toNat then s.blk[s.blksel.toNat]?
  else none

/-- A word of a result register: unspecified while a command runs (R73). -/
def State.resultWord (s : State) (x i : Nat) : Option Word :=
  if s.status.busy then none else some (slotWord x i)

/-- The data a read of a location returns; none where the spec leaves it unspecified. -/
def readLoc (l : Loc) (s : State) : Option Word :=
  match l with
  | .cmd => some s.cmd
  | .status => some s.status.toWord
  | .ctrl => some (ctrlWord s.ie)
  | .nblk => if s.packRunning then none else some (s.nblk.setWidth 32)
  | .blksel => some (s.blksel.setWidth 32)
  | .blkcnt => s.viewedBlock.map fun b => b.cnt.setWidth 32
  | .rngcnt => some s.rngcnt
  | .param => some (paramWord s.params)
  | .version => some versionWord
  | .opa i => some (slotWord s.opa i)
  | .opb i => some (slotWord s.opb i)
  | .opc i => some (slotWord s.opc i)
  | .res0 i => s.resultWord s.res0 i
  | .res1 i => s.resultWord s.res1 i
  | .res2 i => s.resultWord s.res2 i
  | .blkval i => s.viewedBlock.map fun b => slotWord b.val i
  | .dig t => some (s.dig.readWord t)

/-- The data of a read the spec leaves unspecified (U12, U13, U14), from a free word: all 32 bits of it,
but for the bits of `BLKCNT` above bit 15, which read 0 always (U21). -/
def unspecifiedData (l : Loc) (w : Word) : Word :=
  match l with
  | .blkcnt => w &&& 0xFFFF
  | _ => w

/-- Unspecified read data: a free value, a fresh one at each read (U12, U13, U14; log 6). -/
def State.replyFree (l : Loc) (s : State) : State :=
  { s with
    bus := .read .okay (unspecifiedData l (Config.freeWord s.freeCtr))
    freeCtr := s.freeCtr + 1 }

/-- `MemRead(off, 4)` (R62): the `ERROR` reply carries 0 (R67). -/
def busRead (off : BitVec 13) (s : State) : State :=
  match accessLoc s.params off with
  | none => s.reply (.read .error 0)
  | some l =>
    match readLoc l s with
    | some w => s.reply (.read .okay w)
    | none => s.replyFree l

/-- A write that is dropped while a command runs, and flagged (R72). -/
def State.unlessBusy (s t : State) : State := if s.status.busy then s.overrun else t

/-- A write of `CTRL` (R34): `SRST` resets and nothing else, else bit 0 is `IE`. -/
def writeCtrl (v : Word) (s : State) : State :=
  if v.getLsbD 1 then s.softReset else { s with ie := v.getLsbD 0 }

/-- A full-word write to a mapped location (R66, R69, R72). -/
def writeLoc (l : Loc) (v : Word) (s : State) : State :=
  match l with
  | .cmd => s.unlessBusy (s.accept v)
  | .status => { s with status := s.status.writeClear v }
  | .ctrl => writeCtrl v s
  | .blksel => { s with blksel := v.setWidth 16 }
  | .opa i => s.unlessBusy { s with opa := putSlotWord s.opa i v }
  | .opb i => s.unlessBusy { s with opb := putSlotWord s.opb i v }
  | .opc i => s.unlessBusy { s with opc := putSlotWord s.opc i v }
  | .dig t => s.unlessBusy { s with dig := s.dig.writeWord t v }
  | .nblk => s
  | .blkcnt => s
  | .rngcnt => s
  | .param => s
  | .version => s
  | .res0 _ => s
  | .res1 _ => s
  | .res2 _ => s
  | .blkval _ => s

/-- `MemWrite(off, 4, v)` with its strobes (R62, R63, R67). -/
def busWrite (off : BitVec 13) (strobes : BitVec 4) (v : Word) (s : State) : State :=
  match accessLoc s.params off with
  | none => s.reply (.write .error)
  | some l => if strobes = 0xF then (writeLoc l v s).reply (.write .okay) else s.reply (.write .error)

/-- `rng_ready` (R81): an MRPRIME is running and needs a base. -/
def State.rngReady (s : State) : Bool :=
  s.status.busy &&
    match decode s.cmd with
    | .instr (.mrprime sa rounds) =>
      (mrDeterministic (s.operandA sa)).isNone && decide (s.mrDrawn < rounds)
    | _ => false

end Sys2Proof.Machine
end

