-- ==== Sys2Proof/Machine/Xgcd.lean ====
section
/-! DEFINITION. The extended gcd unit (spec/40_xgcd.md): the function of R111, the loop of R117, and the meaning of XGCD (R112). -/

namespace Sys2Proof.Machine

/-- R111's recursion on fuel. `sign` and floor division are those of R8 and R9. -/
def xgcdFuel : Nat → Int → Int → Nat × Int × Int
  | 0, a, _ => (a.natAbs, a.sign, 0)
  | f + 1, a, b =>
    if b = 0 then (a.natAbs, a.sign, 0)
    else match xgcdFuel f b (a - a.fdiv b * b) with
      | (g, x1, y1) => (g, y1, x1 - a.fdiv b * y1)

/-- `xgcd(a, b)` (R111). The fuel is enough, because the remainder is below `|b|`. -/
def xgcd (a b : Int) : Nat × Int × Int := xgcdFuel b.natAbs a b

/-- The running pairs of the loop of R117. -/
structure XgcdRegs where
  r0 : Int
  r1 : Int
  s0 : Int
  s1 : Int
  t0 : Int
  t1 : Int
deriving DecidableEq, Repr

/-- The loop of R117, on fuel. -/
def xgcdLoop : Nat → XgcdRegs → XgcdRegs
  | 0, w => w
  | f + 1, w =>
    if w.r1 = 0 then w
    else xgcdLoop f
      { r0 := w.r1, r1 := w.r0 - w.r0.fdiv w.r1 * w.r1
        s0 := w.s1, s1 := w.s0 - w.r0.fdiv w.r1 * w.s1
        t0 := w.t1, t1 := w.t0 - w.r0.fdiv w.r1 * w.t1 }

/-- The engine's iteration (R117): the loop, then `g = |r0|`, `x = sign(r0) * s0`,
`y = sign(r0) * t0`. -/
def xgcdIterative (a b : Int) : Nat × Int × Int :=
  let w := xgcdLoop b.natAbs { r0 := a, r1 := b, s0 := 1, s1 := 0, t0 := 0, t1 := 1 }
  (w.r0.natAbs, w.r0.sign * w.s0, w.r0.sign * w.t0)

/-- What XGCD assigns (R112). -/
def xgcdResults (a b : Int) : Results :=
  match xgcd a b with
  | (g, x, y) =>
    { v0 := g, v1 := x.natAbs, v2 := y.natAbs, sx := decide (x < 0), sy := decide (y < 0) }

/-- XGCD (R112). -/
def execXgcd (sa sb : Bool) (s : State) : Host.Outcome State Fault Refusal :=
  .next (s.complete .ok .none (xgcdResults (s.operandA sa) (s.operandB sb)))

end Sys2Proof.Machine
end

