-- ==== Sys2Proof/Machine/Modinv.lean ====
section
/-! DEFINITION. The modular inverse divider (spec/41_modinv.md): the function of R131 and the meaning of MODINV (R132). -/

namespace Sys2Proof.Machine

/-- `modinv(a, m)` (R131). -/
def modinv (a m : Int) : Except Failure Nat :=
  if m ≤ 0 then .error (.invalid .nonpositiveModulus)
  else match xgcd a m with
    | (g, x, _) => if g = 1 then .ok (x.fmod m).toNat else .error .noInverse

/-- MODINV (R132). -/
def execModinv (sa sc : Bool) (s : State) : Host.Outcome State Fault Refusal :=
  .next (s.completeWith (modinv (s.operandA sa) (s.operandC sc)))

end Sys2Proof.Machine
end

