-- ==== Sys2Proof/Machine/Pack.lean ====
section
/-! DEFINITION. The greedy block packer engine (spec/44_pack.md): the function of R186 with its guards (R188 to R192) and the meaning of PACK (R187). -/

namespace Sys2Proof.Machine

/-- R186's scan: the blocks emitted from the accumulator `(acc, cnt)` and the groups to come. -/
def packScan (m : Int) : Nat → Nat → List Nat → List (Nat × Nat)
  | acc, cnt, [] => if 0 < cnt then [(acc, cnt)] else []
  | acc, cnt, g :: gs =>
    if ((acc * 100 + g : Nat) : Int) < m then packScan m (acc * 100 + g) (cnt + 1) gs
    else (acc, cnt) :: packScan m g 1 gs

/-- The guards in their order (R186, R188, R189, R190, R192, R239), on the group count `k` and the
groups, which are looked at only when `k ≤ LMAX` (R187). -/
def packGuard (lmax k : Nat) (groups : List Nat) (m : Int) : Option SubCause :=
  if m ≤ 25 then some .modulusTooSmall
  else if lmax < k then some .badLength
  else if groups.any (fun g => decide (99 < g)) then some .badDigit
  else if groups.any (fun g => decide (m ≤ (g : Int))) then some .groupTooLarge
  else none

/-- `pack` with the group count given apart from the groups (R187: "When `NGRP > LMAX` the list `G`
is not formed"). -/
def packGroups (lmax k : Nat) (groups : List Nat) (m : Int) : Except Failure (List (Nat × Nat)) :=
  match packGuard lmax k groups m with
  | some sub => .error (.invalid sub)
  | none => .ok (packScan m 0 0 groups)

/-- `pack(G, m)` (R186). -/
def pack (lmax : Nat) (groups : List Nat) (m : Int) : Except Failure (List (Nat × Nat)) :=
  packGroups lmax groups.length groups m

/-- The groups PACK reads (R187): none when there are more than the buffer holds. -/
def State.packInput (s : State) (ngrp : Nat) : List Nat :=
  if ngrp ≤ s.params.lmax then s.groups ngrp else []

/-- PACK (R187). -/
def execPack (sc : Bool) (ngrp : Nat) (s : State) : Host.Outcome State Fault Refusal :=
  .next (s.completePack
    (packGroups s.params.lmax ngrp (s.packInput ngrp) (s.operandC sc)))

end Sys2Proof.Machine
end

