-- ==== Sys2Proof/Machine/Dispatch.lean ====
section
/-! DEFINITION. Every command's meaning: the completion step of the command (spec/60_exceptions.md R236), evaluated on the state, which cannot have changed since acceptance in what the command reads (spec/00_scope.md R14). -/

namespace Sys2Proof.Machine

def exec (i : Instr) (s : State) : Host.Outcome State Fault Refusal :=
  match i with
  | .xgcd sa sb => Sys2Proof.Machine.execXgcd sa sb s
  | .modinv sa sc => Sys2Proof.Machine.execModinv sa sc s
  | .modexp sa sb sc => Sys2Proof.Machine.execModexp sa sb sc s
  | .mrprime sa rounds => Sys2Proof.Machine.execMrprime sa rounds s
  | .pack sc ngrp => Sys2Proof.Machine.execPack sc ngrp s

end Sys2Proof.Machine
end

