-- ==== Sys2Proof/Machine/Engine.lean ====
section
/-! DEFINITION. One move of one agent (spec/00_scope.md R13): the engine's step (spec/10_state.md R42), the host's accesses and waits, the randomness source and the reset input. -/

namespace Sys2Proof.Machine

/-- The engine's step (R42): with `BUSY = 0` it has none; with `BUSY = 1` it carries out the command
`CMD` decodes to, and an illegal word completes as R237 says. -/
def engineStep (s : State) : Host.Outcome State Fault Refusal :=
  if s.rstN && s.status.busy then
    match decode s.cmd with
    | .instr i => exec i s
    | .illegal _ => .next s.completeIllegal
  else .next s

/-- A move of the host: refused while `rst_n = 0` (R260, U23). -/
def hostStep (s t : State) : Host.Outcome State Fault Refusal :=
  if s.rstN then .next t else .refused .accessInReset

/-- WAIT (R99): while `BUSY = 1` the engine moves and the host goes on waiting; then the host's last
read of `STATUS`. -/
def waitStep (s : State) : Host.Outcome State Fault Refusal :=
  if s.rstN && s.status.busy then engineStep (s.withInputs (.wait :: s.inputs))
  else hostStep s (busRead 0x004 s)

/-- WAITIRQ (R99): until `irq = 1` the engine moves and the host goes on waiting. -/
def waitIrqStep (s : State) : Host.Outcome State Fault Refusal :=
  if s.irq then .next s else engineStep (s.withInputs (.waitIrq :: s.inputs))

/-- One move, the script already advanced past it. -/
def inputStep (e : Input) (s : State) : Host.Outcome State Fault Refusal :=
  match e with
  | .engine => engineStep s
  | .read off => hostStep s (busRead off s)
  | .write off strobes v => hostStep s (busWrite off strobes v s)
  | .rngOffer w => .next (s.offer w)
  | .rstAssert => .next s.hardReset
  | .rstRelease => .next s.releaseReset
  | .wait => waitStep s
  | .waitIrq => waitIrqStep s

/-- The script with the engine's turn first; an empty script already gives the engine the turn. -/
def engineFirst : List Input → List Input
  | [] => []
  | e :: l => .engine :: e :: l

end Sys2Proof.Machine
end

