-- ==== Sys2Proof/Machine/Step.lean ====
section
/-! DEFINITION. The step: the next move of the script, and the engine's when the script is empty; and the placing of a command word where the next step runs it. -/

namespace Sys2Proof.Machine

/-- One step of the machine (R13: the steps of the agents are one total order). -/
def step (s : State) : Host.Outcome State Fault Refusal :=
  match s.inputs with
  | [] => engineStep s
  | e :: l => inputStep e (s.withInputs l)

/-- The command word `w`, accepted (R235) and next to run: the block fetches nothing (R21, R90), so
where it takes its next command from is `CMD` with `BUSY = 1`, out of reset, the engine having the
turn (log 10). -/
def State.withFetchWord (s : State) (nbits w : Nat) : State :=
  ((s.accept (tableWord nbits w)).releaseReset).withInputs (engineFirst s.inputs)

end Sys2Proof.Machine
end

