-- ==== Sys2Proof/Machine/HostReference.lean ====
section
/-! DEFINITION. The host-side reference functions of spec/45_host_reference.md (R205 to R216): plain functions beside the machine, no operation of the block. Text is a list of characters, a digit string a list of groups. -/

namespace Sys2Proof.Machine

/-- The index of a letter in either case (R206, R209); other characters have none. -/
def letterIndex (c : Char) : Option Nat :=
  if 65 ≤ c.toNat ∧ c.toNat ≤ 90 then some (c.toNat - 65)
  else if 97 ≤ c.toNat ∧ c.toNat ≤ 122 then some (c.toNat - 97)
  else none

/-- `encode(text)` (R209). -/
def encodeText (text : List Char) : List Nat := text.filterMap letterIndex

/-- The letter of an index (R206), none above 25. -/
def letterOf (g : Nat) : Option Char := if g ≤ 25 then some (Char.ofNat (65 + g)) else none

/-- `decode(digit_string)` (R210). -/
def decodeGroups (gs : List Nat) : List Char := gs.filterMap letterOf

/-- `unpack` of one block (R211), none outside its domain `v < 100^c` (U7). -/
def unpackBlock (v c : Nat) : Option (List Nat) :=
  if v < 100 ^ c then some ((List.range c).map fun j => v / 100 ^ (c - 1 - j) % 100) else none

/-- `unpack(Block sequence)` (R211). -/
def unpack : List (Nat × Nat) → Option (List Nat)
  | [] => some []
  | (v, c) :: bs =>
    match unpackBlock v c, unpack bs with
    | some g, some gs => some (g ++ gs)
    | _, _ => none

/-- The host's errors (R212, R213, R217). -/
inductive HostError where
  /-- The block's own failure, surfaced as it is (R217). -/
  | block (f : Failure)
  /-- `KeyDerivationError`, the block's `NO_INVERSE` in key derivation (R213). -/
  | keyDerivation
  /-- `ValidationError NotPrime(p|q)`. -/
  | notPrime (v : Int)
  /-- `ValidationError ModulusMismatch`. -/
  | modulusMismatch (p q n : Int)
  /-- `ValidationError ExponentNotCoprimeWithPhi`. -/
  | exponentNotCoprimeWithPhi (e phi : Int)
  /-- `unpack` outside its domain (U7). -/
  | blockTooWide
deriving DecidableEq, Repr

/-- `validate_keys(p, q, n, e)` (R212, R214), `p` tested before `q`, the stream read from `pos` on. -/
def validateKeys (p q n e : Int) (rounds : Nat) (draw : Nat → Nat) (pos : Nat) :
    Except HostError Int :=
  match mrprimeStream p rounds draw pos with
  | (false, _) => .error (.notPrime p)
  | (true, k) =>
    if (mrprimeStream q rounds draw (pos + k)).1 = false then .error (.notPrime q)
    else if p * q ≠ n then .error (.modulusMismatch p q n)
    else if (xgcd e ((p - 1) * (q - 1))).1 ≠ 1 then
      .error (.exponentNotCoprimeWithPhi e ((p - 1) * (q - 1)))
    else .ok ((p - 1) * (q - 1))

/-- `derive_private_exponent(e, phi)` (R213). -/
def derivePrivateExponent (e phi : Int) : Except HostError Nat :=
  match modinv e phi with
  | .ok d => .ok d
  | .error f => if f.err = .noInverse then .error .keyDerivation else .error (.block f)

/-- `mod_pow(value, e, n)` per block, preserving each `letter_count` (R215, R216). -/
def powBlocks (e n : Int) : List (Nat × Nat) → Except Failure (List (Nat × Nat))
  | [] => .ok []
  | (v, c) :: bs =>
    match modexp v e n, powBlocks e n bs with
    | .ok w, .ok ws => .ok ((w, c) :: ws)
    | .error f, _ => .error f
    | .ok _, .error f => .error f

/-- `encrypt(text, e, n)` (R215), on a block of capacity `lmax`. -/
def encryptText (lmax : Nat) (text : List Char) (e n : Int) : Except HostError (List (Nat × Nat)) :=
  match pack lmax (encodeText text) n with
  | .error f => .error (.block f)
  | .ok bs =>
    match powBlocks e n bs with
    | .error f => .error (.block f)
    | .ok cs => .ok cs

/-- `decrypt(blocks, d, n)` (R216). -/
def decryptBlocks (blocks : List (Nat × Nat)) (d n : Int) : Except HostError (List Char) :=
  match powBlocks d n blocks with
  | .error f => .error (.block f)
  | .ok bs =>
    match unpack bs with
    | none => .error .blockTooWide
    | some gs => .ok (decodeGroups gs)

end Sys2Proof.Machine
end

