-- ==== Sys2Proof/Safety.lean ====
section
/-! DEFINITION. What claims use: the invariant of the machine's states, when a running command will not wait (spec/00_scope.md R15, spec/70_reset_and_hazards.md R276), what a completion leaves (spec/60_exceptions.md R236), what each command reads (spec/10_state.md R44) and where each register stands (spec/20_memory.md R69). -/

namespace Sys2Proof.Machine

/-- What a block-table entry below `NBLK` always satisfies (R25, spec/44_pack.md R194): its value is
a magnitude, it has a letter, and its value has at most `2 * letter_count` digits. -/
structure Block.Fits (p : Params) (b : Block) : Prop where
  magnitude : b.val < 2 ^ p.width
  letters : 1 ≤ b.cnt.toNat
  capacity : b.cnt.toNat ≤ p.lmax
  digits : b.val < 100 ^ b.cnt.toNat

/-- The invariant every step keeps. -/
structure State.Inv (s : State) : Prop where
  /-- R5, R6. -/
  params : s.params.Legal
  /-- R22: operand magnitudes are in `[0, 2^W - 1]`. -/
  opaFits : s.opa < 2 ^ s.params.width
  opbFits : s.opb < 2 ^ s.params.width
  opcFits : s.opc < 2 ^ s.params.width
  /-- R23: so are result magnitudes; no result is ever truncated (R5). -/
  res0Fits : s.res0 < 2 ^ s.params.width
  res1Fits : s.res1 < 2 ^ s.params.width
  res2Fits : s.res2 < 2 ^ s.params.width
  /-- The digit buffer is canonical and has `LMAX` bytes (R24). -/
  digWf : s.dig.wf = true
  digBound : ∀ c ∈ s.dig, c.1 < s.params.lmax
  /-- R25, R37. -/
  blkLength : s.blk.length = s.nblk.toNat
  nblkBound : s.nblk.toNat ≤ s.params.lmax
  blkFits : ∀ b ∈ s.blk, b.Fits s.params
  /-- R29: `BUSY` and `DONE` are never both 1. -/
  busyDone : ¬(s.status.busy = true ∧ s.status.done = true)
  /-- R30, R31, R32: the result flags are 0 while `BUSY = 1`. -/
  busyFlags : s.status.busy = true →
    s.status.prime = false ∧ s.status.err = .ok ∧ s.status.sub = .none ∧
      s.status.sx = false ∧ s.status.sy = false
  /-- R31, R232: `SUB` is 0 exactly when `ERR` is not `INVALID_ARGUMENT`. -/
  subCause : s.status.sub = .none ↔ s.status.err ≠ .invalidArgument
  /-- R236: a failure leaves no result. -/
  failure : s.status.err ≠ .ok →
    s.res0 = 0 ∧ s.res1 = 0 ∧ s.res2 = 0 ∧
      s.status.prime = false ∧ s.status.sx = false ∧ s.status.sy = false
  /-- R10: no negative zero is produced. -/
  signX : s.status.sx = true → s.res1 ≠ 0
  signY : s.status.sy = true → s.res2 ≠ 0
  /-- R81: the words of the stream are `W`-bit numbers. -/
  rngFits : ∀ w ∈ s.rng, w < 2 ^ s.params.width
  /-- R41, R175: words are drawn only by a running MRPRIME, at most one a round. -/
  drawn : s.mrDrawn ≠ 0 → s.status.busy = true ∧
    ∃ sa rounds, decode s.cmd = .instr (.mrprime sa rounds) ∧ s.mrDrawn ≤ rounds
  /-- R43, R260: while `rst_n = 0` the control registers are at their reset values. -/
  inReset : s.rstN = false →
    s.cmd = 0 ∧ s.status = Status.reset ∧ s.ie = false ∧ s.nblk = 0 ∧ s.blksel = 0 ∧ s.rngcnt = 0

/-- Every word the running command may ask for is there (R15's premise for MRPRIME); every other
command needs none. -/
def State.wordsSuffice (s : State) (i : Instr) : Bool :=
  match i with
  | .mrprime sa rounds =>
    (mrDeterministic (s.operandA sa)).isSome || decide (rounds - s.mrDrawn ≤ s.rng.length)
  | _ => true

/-- The state after a completion that writes exactly these values (R236), every other field as it
was (R44, R238); the engine's hidden round index is gone (R41). -/
def State.finished (s : State) (err : ErrKind) (sub : SubCause) (v0 v1 v2 : Nat)
    (prime sx sy : Bool) : State :=
  { s with
    res0 := v0, res1 := v1, res2 := v2
    status := { busy := false, done := true, prime := prime, err := err, sub := sub,
                sx := sx, sy := sy, ovr := s.status.ovr }
    mrDrawn := 0 }

/-- The state after a failing completion (R236): the codes, and no result. -/
def State.failed (s : State) (err : ErrKind) (sub : SubCause) : State :=
  s.finished err sub 0 0 0 false false false

/-- The state after a failing PACK (R187): no blocks either. -/
def State.failedPack (s : State) (sub : SubCause) : State :=
  { s.failed .invalidArgument sub with nblk := 0, blk := [] }

/-- Two states agree on everything a command's result depends on (R44's "reads" column); the signs
and the immediate stand in the command itself. -/
def readsAgree (i : Instr) (s s' : State) : Prop :=
  match i with
  | .xgcd _ _ => s.opa = s'.opa ∧ s.opb = s'.opb
  | .modinv _ _ => s.opa = s'.opa ∧ s.opc = s'.opc
  | .modexp _ _ _ => s.opa = s'.opa ∧ s.opb = s'.opb ∧ s.opc = s'.opc
  | .mrprime _ _ => s.opa = s'.opa ∧ s.rng = s'.rng ∧ s.mrDrawn = s'.mrDrawn
  | .pack _ ngrp => s.opc = s'.opc ∧ s.params.lmax = s'.params.lmax ∧
      ∀ k, k < ngrp → s.dig.readByte k = s'.dig.readByte k

/-- The offset of a location, as the table of R69 and the slot layout of R70, R71 give it. -/
def Loc.offset : Loc → Nat
  | .cmd => 0x000
  | .status => 0x004
  | .ctrl => 0x008
  | .nblk => 0x00C
  | .blksel => 0x010
  | .blkcnt => 0x014
  | .rngcnt => 0x018
  | .param => 0x01C
  | .version => 0x020
  | .opa i => 0x200 + 4 * i
  | .opb i => 0x400 + 4 * i
  | .opc i => 0x600 + 4 * i
  | .res0 i => 0x800 + 4 * i
  | .res1 i => 0xA00 + 4 * i
  | .res2 i => 0xC00 + 4 * i
  | .blkval i => 0xE00 + 4 * i
  | .dig t => 0x1000 + 4 * t

/-- The locations a block with these parameters has: `NW` words a slot (R70), `LMAX / 4` words of
digits (R71). -/
def Loc.present (p : Params) : Loc → Prop
  | .opa i | .opb i | .opc i | .res0 i | .res1 i | .res2 i | .blkval i => i < p.nw
  | .dig t => t < p.lmax / 4
  | _ => True

/-- The registers a host cannot write (R66). -/
def Loc.readOnly : Loc → Bool
  | .nblk | .blkcnt | .rngcnt | .param | .version => true
  | .res0 _ | .res1 _ | .res2 _ | .blkval _ => true
  | _ => false

/-- The registers whose writes are dropped while a command runs (R72). -/
def Loc.heldWhileBusy : Loc → Bool
  | .cmd | .opa _ | .opb _ | .opc _ | .dig _ => true
  | _ => false

/-- The next move is a full-word write to this location (R63). -/
def State.nextWrites (s : State) (l : Loc) (v : Word) : Prop :=
  ∃ off rest, s.inputs = .write off 0xF v :: rest ∧ accessLoc s.params off = some l

/-- The next move is hard reset. -/
def State.nextHardResets (s : State) : Prop := ∃ rest, s.inputs = .rstAssert :: rest

/-- The next move resets the block, softly (R262) or by `rst_n` (R260). -/
def State.nextResets (s : State) : Prop :=
  (∃ v, s.nextWrites .ctrl v ∧ v.getLsbD 1 = true) ∨ s.nextHardResets

end Sys2Proof.Machine
end

