-- ==== Sys2Proof/Certificates/Slice0/Obligations.lean ====
section
/-! DEFINITION. The statements for the provers, from the numbered rules of spec/. -/

open Sys2Proof Sys2Proof.Machine

/-! ### Encoding -/

/-- Command words written out in R100 and R95 decode as those rules say. -/
def Obligations.WrittenWordsDecode : Prop :=
  decode 0x00000003 = .instr (.modexp false false false) ∧
  decode 0x00000101 = .instr (.xgcd true false) ∧
  decode 0x00000102 = .instr (.modinv true false) ∧
  decode 0x00050004 = .instr (.mrprime false 5) ∧
  decode 0x00050005 = .instr (.pack false 5) ∧
  decode 0x00000203 = .instr (.modexp false true false) ∧
  isLegal 0x00000401 = false ∧ isLegal 0x00010003 = false ∧ isLegal 0x00000105 = false ∧
  isLegal 0x00000000 = false

/-- Decoding what is encoded gives the command back, for every command and every operand (R91, R92,
R94). -/
def Obligations.DecodeOfEncode : Prop :=
  ∀ i : Instr, i.wellFormed = true → decode (encode i) = .instr i

/-- Every legal word is the encoding of what it decodes to: no bit of it is dropped (R91, R93). -/
def Obligations.EncodeOfDecode : Prop :=
  ∀ (c : Word) (i : Instr), decode c = .instr i → i.wellFormed = true ∧ encode i = c

/-- R93: the decoder agrees with the masks of R94, on every 32-bit word, and no word is of two
rows. -/
def Obligations.DecodeAgreesWithOpcodeMap : Prop :=
  (∀ (c : Word) (i : Instr), decode c = .instr i →
    ∃ r ∈ opcodeTable, r.mnemonic = i.mnemonic ∧ r.admits c = true) ∧
  (∀ (c : Word) (r : OpcodeRow), r ∈ opcodeTable → r.admits c = true →
    ∃ i, decode c = .instr i ∧ i.mnemonic = r.mnemonic) ∧
  (∀ (c : Word) (r r' : OpcodeRow), r ∈ opcodeTable → r' ∈ opcodeTable →
    r.admits c = true → r'.admits c = true → r = r')

/-! ### The step -/

/-- A step runs the decoded command: out of reset, with `BUSY = 1` and the engine's turn (its own, or
while the host waits), step is exec of the command in `CMD` (R42).
The script that says whose turn it is is the model's (log 2). -/
def Obligations.StepRunsDecodedCommand : Prop :=
  ∀ (s : State) (i : Instr), s.rstN = true → s.status.busy = true → decode s.cmd = .instr i →
    (s.inputs = [] → step s = exec i s) ∧
    (∀ l, s.inputs = .engine :: l → step s = exec i (s.withInputs l)) ∧
    (∀ l, s.inputs = .wait :: l → step s = exec i s) ∧
    (∀ l, s.inputs = .waitIrq :: l → s.irq = false → step s = exec i s)

/-- The next step after withFetchWord runs exactly the command of the word, on the state that
acceptance leaves (R235); the model's placing of a word (log 10). -/
def Obligations.FetchWordRunsNext : Prop :=
  ∀ (s : State) (nbits w : Nat) (i : Instr), decodeTableWord nbits w = some i →
    step (s.withFetchWord nbits w) = exec i ((s.accept (tableWord nbits w)).releaseReset)

/-- R42: with `BUSY = 0` the engine "is idle and has no step".
The script is the model's (log 2). -/
def Obligations.IdleEngineHasNoStep : Prop :=
  ∀ s : State, s.status.busy = false →
    (s.inputs = [] → step s = .next s) ∧
    (∀ l, s.inputs = .engine :: l → step s = .next (s.withInputs l))

/-- R237: an accepted illegal word completes with `ERR = ILLEGAL_COMMAND`, all results 0, and nothing
else, at every turn of the engine (its own, or while the host waits). The script that says whose turn
it is is the model's (log 2). -/
def Obligations.IllegalWordCompletes : Prop :=
  ∀ (s : State) (why : IllegalWord), s.rstN = true → s.status.busy = true →
    decode s.cmd = .illegal why →
    (s.inputs = [] → step s = .next (s.failed .illegalCommand .none)) ∧
    (∀ l, s.inputs = .engine :: l →
      step s = .next ((s.withInputs l).failed .illegalCommand .none)) ∧
    (∀ l, s.inputs = .wait :: l → step s = .next (s.failed .illegalCommand .none)) ∧
    (∀ l, s.inputs = .waitIrq :: l → s.irq = false →
      step s = .next (s.failed .illegalCommand .none))

/-- Completion, for every command (R236): exec always answers a next state, in which either the
command is complete (`BUSY = 0`, `DONE = 1`, `OVR` kept, and no result at all if it failed), or an
MRPRIME has taken the words there were and goes on waiting (R276).
How a waiting MRPRIME stands is the model's (log 5). -/
def Obligations.EveryCommandCompletesOrWaits : Prop :=
  ∀ (i : Instr) (s : State), s.status.busy = true → ∃ t, exec i s = .next t ∧
    ((t.status.busy = false ∧ t.status.done = true ∧ t.status.ovr = s.status.ovr ∧
      (t.status.err ≠ .ok → t.res0 = 0 ∧ t.res1 = 0 ∧ t.res2 = 0 ∧
        t.status.prime = false ∧ t.status.sx = false ∧ t.status.sy = false)) ∨
     (∃ sa rounds, i = .mrprime sa rounds ∧
        t = { s with rng := [], rpos := s.rpos + s.rng.length,
                     mrDrawn := s.mrDrawn + s.rng.length }))

/-- R15: an accepted command completes, "provided that for MRPRIME the randomness source delivers
each word asked of it"; an illegal word always does.
That one step completes is the model's choice (log 7). -/
def Obligations.AcceptedCommandCompletes : Prop :=
  ∀ s : State, s.rstN = true → s.status.busy = true → s.inputs = [] →
    (∀ i, decode s.cmd = .instr i → s.wordsSuffice i = true) →
    ∃ t, step s = .next t ∧ t.status.busy = false ∧ t.status.done = true

/-- A command word written to `CMD` while idle, and a WAIT after it, are the acceptance and then the
engine's carrying out of that command on the state acceptance left (R235, R236).
The script is the model's (log 2). -/
def Obligations.CommandThroughWindow : Prop :=
  ∀ (s : State) (c : Word) (i : Instr) (l : List Input), s.rstN = true → s.status.busy = false →
    decode c = .instr i → s.inputs = .write 0x000 0xF c :: .wait :: l →
    core.run 2 s =
      exec i (((s.accept c).reply (.write .okay)).withInputs (.wait :: l))

/-! ### XGCD -/

/-- R112: XGCD completes for every pair of operands, with `RES0 = g`, `RES1 = |x|`, `RES2 = |y|` and
the signs, and changes nothing else. -/
def Obligations.XgcdCompletes : Prop :=
  ∀ (sa sb : Bool) (s : State) (g : Nat) (x y : Int),
    xgcd (signedVal sa s.opa) (signedVal sb s.opb) = (g, x, y) →
    exec (.xgcd sa sb) s =
      .next (s.finished .ok .none g x.natAbs y.natAbs false (decide (x < 0)) (decide (y < 0)))

/-- R111: the recursion that defines the triple, with floor division (R9). -/
def Obligations.XgcdRecursion : Prop :=
  (∀ a : Int, xgcd a 0 = (a.natAbs, a.sign, 0)) ∧
  (∀ (a b : Int) (g : Nat) (x1 y1 : Int), b ≠ 0 → xgcd b (a - a.fdiv b * b) = (g, x1, y1) →
    xgcd a b = (g, y1, x1 - a.fdiv b * y1))

/-- R113: `g` is the gcd, 0 only for `a = b = 0`, and the Bezout identity holds exactly. -/
def Obligations.XgcdIsGcdAndBezout : Prop :=
  ∀ a b : Int, (xgcd a b).1 = Int.gcd a b ∧
    ((xgcd a b).1 = 0 ↔ a = 0 ∧ b = 0) ∧
    a * (xgcd a b).2.1 + b * (xgcd a b).2.2 = ((xgcd a b).1 : Int)

/-- R114: the magnitude of the coefficients, in its loose and its sharp form, and so their fit. -/
def Obligations.XgcdCoefficientBounds : Prop :=
  ∀ a b : Int,
    ((xgcd a b).2.1.natAbs ≤ max 1 b.natAbs ∧ (xgcd a b).2.2.natAbs ≤ max 1 a.natAbs) ∧
    (b ≠ 0 → (xgcd a b).2.1.natAbs ≤ max 1 (b.natAbs / (xgcd a b).1) ∧
      (xgcd a b).2.2.natAbs ≤ max 1 (a.natAbs / (xgcd a b).1)) ∧
    (∀ w : Nat, 1 ≤ w → a.natAbs < 2 ^ w → b.natAbs < 2 ^ w →
      (xgcd a b).2.1.natAbs < 2 ^ w ∧ (xgcd a b).2.2.natAbs < 2 ^ w)

/-- R115: negating both operands negates both coefficients, and when `b` divides `a` the result is
`(|b|, 0, sign(b))`. -/
def Obligations.XgcdSigns : Prop :=
  (∀ (a b : Int) (g : Nat) (x y : Int), xgcd a b = (g, x, y) → xgcd (-a) (-b) = (g, -x, -y)) ∧
  (∀ a b : Int, b ≠ 0 → b ∣ a → xgcd a b = (b.natAbs, 0, b.sign))

/-- R117: the engine's loop "returns exactly `xgcd(a, b)` for all integers `a`, `b`". -/
def Obligations.XgcdLoopIsRecursion : Prop :=
  ∀ a b : Int, xgcdIterative a b = xgcd a b

/-! ### MODINV -/

/-- MODINV (R131, R132, R133, R239): the modulus is tested first, then the gcd; else `RES0` is the one
`x` in `[0, m)` with `a * x ≡ 1 (mod m)`, also for `m = 1` (spec/90_conflicts.md C1). -/
def Obligations.ModinvCompletes : Prop :=
  ∀ (sa sc : Bool) (s : State) (a m : Int), a = signedVal sa s.opa → m = signedVal sc s.opc →
    (m ≤ 0 → exec (.modinv sa sc) s =
      .next (s.failed .invalidArgument .nonpositiveModulus)) ∧
    (0 < m → Int.gcd a m ≠ 1 → exec (.modinv sa sc) s = .next (s.failed .noInverse .none)) ∧
    (0 < m → Int.gcd a m = 1 → ∃ x : Nat, (x : Int) < m ∧ m ∣ a * x - 1 ∧
      (∀ x' : Nat, (x' : Int) < m → m ∣ a * x' - 1 → x' = x) ∧
      exec (.modinv sa sc) s = .next (s.finished .ok .none x 0 0 false false false))

/-- R133 (c), (d): only the residue of `a` matters, and inverting twice gives the residue back. -/
def Obligations.ModinvResiduesAndInvolution : Prop :=
  (∀ a m k : Int, 1 ≤ m → modinv (a + k * m) m = modinv a m) ∧
  (∀ (a m : Int) (x : Nat), 2 ≤ m → modinv a m = .ok x →
    modinv (x : Int) m = .ok (a.fmod m).toNat)

/-! ### MODEXP -/

/-- MODEXP (R147, R148, R239): the modulus is tested first, then the exponent; else `RES0` is 1 for
exponent 0 whatever the modulus, and `(b^e) mod m` for a positive one. -/
def Obligations.ModexpCompletes : Prop :=
  ∀ (sa sb sc : Bool) (s : State) (b e m : Int), b = signedVal sa s.opa →
    e = signedVal sb s.opb → m = signedVal sc s.opc →
    (m ≤ 0 → exec (.modexp sa sb sc) s =
      .next (s.failed .invalidArgument .nonpositiveModulus)) ∧
    (0 < m → e < 0 → exec (.modexp sa sb sc) s =
      .next (s.failed .invalidArgument .negativeExponent)) ∧
    (0 < m → e = 0 → exec (.modexp sa sb sc) s =
      .next (s.finished .ok .none 1 0 0 false false false)) ∧
    (0 < m → 0 < e → exec (.modexp sa sb sc) s =
      .next (s.finished .ok .none ((b ^ e.toNat).fmod m).toNat 0 0 false false false))

/-- R149: every `res` and `base` after the reduction is below the modulus or 1, so every product is
below `m^2`, which is below `2^(2W)`. The states are those of the machine's own loop: from each of
them the loop goes on to its result, and the last one, with exponent 0, holds the value that MODEXP
writes. -/
def Obligations.ModexpIntermediatesBounded : Prop :=
  ∀ m b e w : Nat, 1 ≤ m → m < 2 ^ w →
    m ^ 2 < 2 ^ (2 * w) ∧
    (∀ st ∈ (1, b % m, e) :: modexpTrace m e 1 (b % m) e,
      st.2.1 < m ∧ (st.1 < m ∨ st.1 = 1) ∧ st.1 * st.2.1 < m ^ 2 ∧ st.2.1 * st.2.1 < m ^ 2 ∧
      modexpLoop m st.2.2 st.1 st.2.1 st.2.2 = powMod m b e) ∧
    (∃ base, ((1, b % m, e) :: modexpTrace m e 1 (b % m) e).getLast? = some (powMod m b e, base, 0)) ∧
    modexp (b : Int) (e : Int) (m : Int) = .ok (powMod m b e)

/-! ### MRPRIME -/

/-- MRPRIME (R166, R167, R176): with the words its stream gives at hand, it completes with the verdict
of R166 in `PRIME` and `RES0`, `RNGCNT` advanced by the draws it made, and those words taken.
The queue of offered words is the model's (log 5). -/
def Obligations.MrprimeCompletes : Prop :=
  ∀ (sa : Bool) (rounds : Nat) (s : State) (draw : Nat → Nat) (v : Bool) (k : Nat),
    s.mrDrawn = 0 → mrprimeStream (signedVal sa s.opa) rounds draw s.rpos = (v, k) →
    (∀ j, j < k → s.rng[j]? = some (draw (s.rpos + j))) →
    exec (.mrprime sa rounds) s =
      .next { s.finished .ok .none v.toNat 0 0 v false false with
              rngcnt := s.rngcnt + BitVec.ofNat 32 k
              rng := s.rng.drop k
              rpos := s.rpos + k }

/-- R276: an MRPRIME whose next round has no word waits; `BUSY` stays 1 and no result is written.
The queue is the model's (log 5). -/
def Obligations.MrprimeWaitsForWords : Prop :=
  ∀ (sa : Bool) (rounds : Nat) (s : State), s.mrDrawn = 0 →
    mrDeterministic (signedVal sa s.opa) = none →
    (∀ w ∈ s.rng, wordPasses (signedVal sa s.opa).toNat w = true) → s.rng.length < rounds →
    exec (.mrprime sa rounds) s =
      .next { s with rng := [], rpos := s.rpos + s.rng.length, mrDrawn := s.rng.length }

/-- Waiting loses nothing: an MRPRIME that waited and is then offered more words ends as it would
have, had they been there at once (R171 b: the verdict is a function of `n`, `rounds` and the
words).
How a waiting MRPRIME stands is the model's (log 5). -/
def Obligations.MrprimeResumes : Prop :=
  ∀ (sa : Bool) (rounds : Nat) (s t : State) (ws : List Nat), s.status.busy = true →
    exec (.mrprime sa rounds) s = .next t → t.status.busy = true →
    exec (.mrprime sa rounds) { t with rng := t.rng ++ ws } =
      exec (.mrprime sa rounds) { s with rng := s.rng ++ ws }

/-- R168: the decomposition of `n - 1`, and that it is the only one. -/
def Obligations.MrDecompositionUnique : Prop :=
  ∀ n : Nat, 5 ≤ n → n % 2 = 1 →
    (1 ≤ (decomposition n).1 ∧ (decomposition n).2 % 2 = 1 ∧
      n - 1 = 2 ^ (decomposition n).1 * (decomposition n).2) ∧
    ∀ r d : Nat, 1 ≤ r → d % 2 = 1 → n - 1 = 2 ^ r * d → decomposition n = (r, d)

/-- R169: the base of a round from its word, that it lies in `[2, n - 2]`, "and every value of the
range is reachable". -/
def Obligations.MrBaseRange : Prop :=
  ∀ n : Nat, 5 ≤ n →
    (∀ w, roundBase n w = 2 + w % (n - 3) ∧ 2 ≤ roundBase n w ∧ roundBase n w ≤ n - 2) ∧
    (∀ a, 2 ≤ a → a ≤ n - 2 → roundBase n (a - 2) = a)

/-- R170: a round in closed form. A base passes exactly when `a^d` is 1 modulo `n`, or one of `a^d`,
`a^(2d)`, ..., `a^(2^(r-1) d)` is `n - 1` modulo `n`. -/
def Obligations.MrRoundClosedForm : Prop :=
  ∀ n r d a : Nat, 5 ≤ n → 1 ≤ r → 1 ≤ d →
    (roundPasses n r d a = true ↔
      a ^ d % n = 1 ∨ ∃ j, j < r ∧ a ^ (2 ^ j * d) % n = n - 1)

/-- R171 (a), (c) and R174: the verdicts without a draw, and the draws made. -/
def Obligations.MrDraws : Prop :=
  ∀ (n : Int) (rounds : Nat) (draw : Nat → Nat) (pos : Nat) (v : Bool) (k : Nat),
    mrprimeStream n rounds draw pos = (v, k) →
    (n < 5 ∨ n % 2 = 0 → k = 0 ∧ (v = true ↔ n = 2 ∨ n = 3)) ∧
    (5 ≤ n → n % 2 = 1 → v = true → k = rounds ∧
      ∀ j, j < rounds → wordPasses n.toNat (draw (pos + j)) = true) ∧
    (5 ≤ n → n % 2 = 1 → v = false → 1 ≤ k ∧ k ≤ rounds ∧
      wordPasses n.toNat (draw (pos + (k - 1))) = false ∧
      ∀ j, j < k - 1 → wordPasses n.toNat (draw (pos + j)) = true)

/-- R171 (d): "the tester never calls a prime composite", whatever the words. -/
def Obligations.PrimesAreNeverCalledComposite : Prop :=
  ∀ (sa : Bool) (rounds : Nat) (s t : State), s.status.busy = true →
    exec (.mrprime sa rounds) s = .next t → t.status.busy = false → t.status.prime = false →
    ¬ Nat.Prime (signedVal sa s.opa).toNat

/-- R81: the engine takes words only while `rng_ready` is raised, from the front of the stream; and
with `rng_ready` down a running command completes without one.
The queue is the model's (log 5). -/
def Obligations.WordsTakenOnlyWhenReady : Prop :=
  ∀ s t : State, engineStep s = .next t →
    (∃ k, t.rpos = s.rpos + k ∧ t.rng = s.rng.drop k ∧ (k ≠ 0 → s.rngReady = true)) ∧
    (s.rstN = true → s.status.busy = true → s.rngReady = false → t.status.busy = false)

/-! ### PACK -/

/-- PACK (R187 to R190, R192, R239): the four guards in their order, and on success the blocks of the
scan. The empty block list after a failure stands for a table that is unspecified (log 6). -/
def Obligations.PackCompletes : Prop :=
  ∀ (sc : Bool) (ngrp : Nat) (s : State) (m : Int) (groups : List Nat), m = signedVal sc s.opc →
    groups = (List.range ngrp).map (fun k => (s.dig.readByte k).toNat) →
    (m ≤ 25 → exec (.pack sc ngrp) s = .next (s.failedPack .modulusTooSmall)) ∧
    (25 < m → s.params.lmax < ngrp → exec (.pack sc ngrp) s = .next (s.failedPack .badLength)) ∧
    (25 < m → ngrp ≤ s.params.lmax → (∃ g ∈ groups, 99 < g) →
      exec (.pack sc ngrp) s = .next (s.failedPack .badDigit)) ∧
    (25 < m → ngrp ≤ s.params.lmax → (∀ g ∈ groups, g ≤ 99) → (∃ g ∈ groups, m ≤ (g : Int)) →
      exec (.pack sc ngrp) s = .next (s.failedPack .groupTooLarge)) ∧
    (25 < m → ngrp ≤ s.params.lmax → (∀ g ∈ groups, g ≤ 99 ∧ (g : Int) < m) →
      exec (.pack sc ngrp) s =
        .next { s.finished .ok .none 0 0 0 false false false with
                nblk := BitVec.ofNat 16 (packScan m 0 0 groups).length
                blk := (packScan m 0 0 groups).map fun b => ⟨b.1, BitVec.ofNat 16 b.2⟩ })

/-- R194 (a), (b), (c): after a successful PACK every block's value is below the modulus, it has a
letter, and its value has at most `2 * letter_count` digits. -/
def Obligations.PackBlockInvariants : Prop :=
  ∀ (sc : Bool) (ngrp : Nat) (s t : State), s.params.Legal →
    exec (.pack sc ngrp) s = .next t → t.status.err = .ok →
    ∀ b ∈ t.blk, (b.val : Int) < signedVal sc s.opc ∧ 1 ≤ b.cnt.toNat ∧ b.val < 100 ^ b.cnt.toNat

/-- R195: unpacking the block table of a successful PACK gives the groups it packed: none is lost,
repeated, moved or split (R194 c, d). -/
def Obligations.UnpackOfPack : Prop :=
  ∀ (sc : Bool) (ngrp : Nat) (s t : State), s.params.Legal →
    exec (.pack sc ngrp) s = .next t → t.status.err = .ok →
    unpack (t.blk.map fun b => (b.val, b.cnt.toNat)) =
      some ((List.range ngrp).map fun k => (s.dig.readByte k).toNat)

/-- R193: "for every block but the last, appending the next group to it would have given a value
`>= C`"; the next group is the first one of the block that follows. -/
def Obligations.PackIsGreedy : Prop :=
  ∀ (sc : Bool) (ngrp : Nat) (s t : State) (j : Nat) (b b' : Block), s.params.Legal →
    exec (.pack sc ngrp) s = .next t → t.status.err = .ok →
    t.blk[j]? = some b → t.blk[j + 1]? = some b' →
    signedVal sc s.opc ≤ ((b.val * 100 + b'.val / 100 ^ (b'.cnt.toNat - 1) : Nat) : Int)

/-- R196: `NBLK <= NGRP`, 0 exactly when `NGRP` is, the letter counts add up to `NGRP`, and the
block table never overflows. -/
def Obligations.PackCounts : Prop :=
  ∀ (sc : Bool) (ngrp : Nat) (s t : State), s.params.Legal →
    exec (.pack sc ngrp) s = .next t → t.status.err = .ok →
    t.nblk.toNat ≤ ngrp ∧ (t.nblk.toNat = 0 ↔ ngrp = 0) ∧
    (t.blk.map fun b => b.cnt.toNat).sum = ngrp ∧
    t.blk.length = t.nblk.toNat ∧ t.nblk.toNat ≤ s.params.lmax

/-! ### What commands leave alone -/

/-- R44, R238: the frame of every command. No operand, digit or control register changes, nor `OVR`;
only PACK changes `NBLK` and the block table, only MRPRIME `RNGCNT` and the stream. -/
def Obligations.CommandFrame : Prop :=
  ∀ (i : Instr) (s t : State), exec i s = .next t →
    (t.params = s.params ∧ t.opa = s.opa ∧ t.opb = s.opb ∧ t.opc = s.opc ∧
      (∀ k, t.dig.readByte k = s.dig.readByte k) ∧ t.dig = s.dig ∧
      t.cmd = s.cmd ∧ t.ie = s.ie ∧ t.blksel = s.blksel ∧ t.status.ovr = s.status.ovr ∧
      t.rstN = s.rstN ∧ t.bus = s.bus ∧ t.inputs = s.inputs) ∧
    ((∀ sc ngrp, i ≠ .pack sc ngrp) → t.nblk = s.nblk ∧ t.blk = s.blk) ∧
    ((∀ sa rounds, i ≠ .mrprime sa rounds) →
      t.rngcnt = s.rngcnt ∧ t.rng = s.rng ∧ t.rpos = s.rpos)

/-- R14, R44: a command's outcome depends on nothing but what R44 says it reads. -/
def Obligations.CommandDependsOnlyOnItsReads : Prop :=
  ∀ (i : Instr) (s s' t t' : State), s.status.busy = true → s'.status.busy = true →
    readsAgree i s s' → exec i s = .next t → exec i s' = .next t' →
    t.status.busy = t'.status.busy ∧
    (t.status.busy = false →
      t.res0 = t'.res0 ∧ t.res1 = t'.res1 ∧ t.res2 = t'.res2 ∧
      t.status.prime = t'.status.prime ∧ t.status.err = t'.status.err ∧
      t.status.sub = t'.status.sub ∧ t.status.sx = t'.status.sx ∧ t.status.sy = t'.status.sy ∧
      t.rngcnt - s.rngcnt = t'.rngcnt - s'.rngcnt ∧
      (∀ sc ngrp, i = .pack sc ngrp → t.nblk = t'.nblk ∧ t.blk = t'.blk))

/-- R238: no step but a host's write while idle, and hard reset, changes an operand register or a
digit. -/
def Obligations.OperandsChangeOnlyByIdleWrites : Prop :=
  ∀ s t : State, step s = .next t →
    (t.opa ≠ s.opa → (s.status.busy = false ∧ ∃ i v, s.nextWrites (.opa i) v) ∨ s.nextHardResets) ∧
    (t.opb ≠ s.opb → (s.status.busy = false ∧ ∃ i v, s.nextWrites (.opb i) v) ∨ s.nextHardResets) ∧
    (t.opc ≠ s.opc → (s.status.busy = false ∧ ∃ i v, s.nextWrites (.opc i) v) ∨ s.nextHardResets) ∧
    (t.dig ≠ s.dig → (s.status.busy = false ∧ ∃ i v, s.nextWrites (.dig i) v) ∨ s.nextHardResets)

/-- R28: `BUSY` "is set only by acceptance and cleared only by completion or reset". -/
def Obligations.BusyChangesOnly : Prop :=
  ∀ s t : State, step s = .next t →
    (s.status.busy = false → t.status.busy = true →
      ∃ v, s.nextWrites .cmd v ∧ t.cmd = v) ∧
    (s.status.busy = true → t.status.busy = false → t.status.done = true ∨ s.nextResets)

/-- R33: `OVR` is set by a dropped write and by nothing else, and "Nothing but a host write to
`STATUS` with bit 14 set, or reset, clears it". -/
def Obligations.OverrunIsSticky : Prop :=
  ∀ s t : State, step s = .next t →
    (s.status.ovr = true → t.status.ovr = false →
      (∃ v, s.nextWrites .status v ∧ v.getLsbD 14 = true) ∨ s.nextResets) ∧
    (s.status.ovr = false →
      (t.status.ovr = true ↔
        s.status.busy = true ∧ ∃ l v, s.nextWrites l v ∧ l.heldWhileBusy = true))

/-- R25, R37, R273: `NBLK` and the block table "survive every command but PACK"; beside it only reset
changes them. -/
def Obligations.BlocksChangeOnlyByPack : Prop :=
  ∀ s t : State, step s = .next t → t.nblk ≠ s.nblk ∨ t.blk ≠ s.blk →
    (s.status.busy = true ∧ t.status.busy = false ∧
      ∃ sc ngrp, decode s.cmd = .instr (.pack sc ngrp)) ∨ s.nextResets

/-- R41 (b), R175, R263: words are taken from the front, once each; no step, reset included, takes
the position back, and only the source adds words.
The queue is the model's (log 5). -/
def Obligations.StreamOnlyAdvances : Prop :=
  ∀ s t : State, step s = .next t →
    ∃ k, t.rpos = s.rpos + k ∧
      (t.rng = s.rng.drop k ∨
        (k = 0 ∧ ∃ w l, s.inputs = .rngOffer w :: l ∧ t.rng = s.rng ++ [w % 2 ^ s.params.width]))

/-! ### The window -/

/-- R69 to R71: the offset map, complete. An offset reaches a location exactly when it is that
location's offset and the block has it; every other offset is misaligned or unmapped. -/
def Obligations.WindowMap : Prop :=
  ∀ (p : Params) (off : BitVec 13) (l : Loc), p.Legal →
    (accessLoc p off = some l ↔ off.toNat = l.offset ∧ l.present p)

/-- R67: an access in error "changes no state of the block at all"; the data of a read is 0. -/
def Obligations.ErrorReplyChangesNothing : Prop :=
  ∀ (s : State) (off : BitVec 13) (strobes : BitVec 4) (v : Word) (l : List Input),
    s.rstN = true →
    (s.inputs = .read off :: l → accessLoc s.params off = none →
      step s = .next { s with inputs := l, bus := .read .error 0 }) ∧
    (s.inputs = .write off strobes v :: l → accessLoc s.params off = none ∨ strobes ≠ 0xF →
      step s = .next { s with inputs := l, bus := .write .error })

/-- R66: a full-word write to a read-only register "gets response `OKAY` and changes no state". -/
def Obligations.ReadOnlyWritesIgnored : Prop :=
  ∀ (s : State) (off : BitVec 13) (v : Word) (loc : Loc) (l : List Input), s.rstN = true →
    s.inputs = .write off 0xF v :: l → accessLoc s.params off = some loc →
    loc.readOnly = true →
    step s = .next { s with inputs := l, bus := .write .okay }

/-- R68: no read has a side effect, on any offset; a mapped one gets `OKAY`; and whatever `BLKCNT`
shows, also where R39 leaves it unspecified, its bits above bit 15 read 0 (U21). The counter of free
values, the model's own, may move (log 6). -/
def Obligations.ReadsChangeNothing : Prop :=
  ∀ (s : State) (off : BitVec 13) (l : List Input), s.rstN = true → s.inputs = .read off :: l →
    ∃ r d n, step s = .next { s with inputs := l, bus := .read r d, freeCtr := n } ∧
      (r = .okay ↔ (accessLoc s.params off).isSome = true) ∧
      (accessLoc s.params off = some .blkcnt → d.toNat < 2 ^ 16)

/-- R26, R34 to R40, R70, R71, R73: what a read returns wherever the spec gives the data. A slot's
word `i` is bits `[32*i+31 : 32*i]`; a digit word has its first group lowest. -/
def Obligations.ReadData : Prop :=
  ∀ (s : State) (off : BitVec 13) (loc : Loc) (l : List Input) (w : Word), s.rstN = true →
    s.inputs = .read off :: l → accessLoc s.params off = some loc →
    (match loc with
      | .cmd => w = s.cmd
      | .status => w = s.status.toWord
      | .ctrl => w.toNat = s.ie.toNat
      | .nblk => s.packRunning = false ∧ w.toNat = s.nblk.toNat
      | .blksel => w.toNat = s.blksel.toNat
      | .blkcnt => s.packRunning = false ∧ s.blksel.toNat < s.nblk.toNat ∧
          ∃ b, s.blk[s.blksel.toNat]? = some b ∧ w.toNat = b.cnt.toNat
      | .rngcnt => w = s.rngcnt
      | .param => s.params.Legal ∧ w.toNat = s.params.lmax * 2 ^ 16 + s.params.width / 32
      | .version => w = 0x00010000
      | .opa i => w.toNat = s.opa / 2 ^ (32 * i) % 2 ^ 32
      | .opb i => w.toNat = s.opb / 2 ^ (32 * i) % 2 ^ 32
      | .opc i => w.toNat = s.opc / 2 ^ (32 * i) % 2 ^ 32
      | .res0 i => s.status.busy = false ∧ w.toNat = s.res0 / 2 ^ (32 * i) % 2 ^ 32
      | .res1 i => s.status.busy = false ∧ w.toNat = s.res1 / 2 ^ (32 * i) % 2 ^ 32
      | .res2 i => s.status.busy = false ∧ w.toNat = s.res2 / 2 ^ (32 * i) % 2 ^ 32
      | .blkval i => s.packRunning = false ∧ s.blksel.toNat < s.nblk.toNat ∧
          ∃ b, s.blk[s.blksel.toNat]? = some b ∧ w.toNat = b.val / 2 ^ (32 * i) % 2 ^ 32
      | .dig t => w.toNat = (s.dig.readByte (4 * t)).toNat +
          2 ^ 8 * (s.dig.readByte (4 * t + 1)).toNat +
          2 ^ 16 * (s.dig.readByte (4 * t + 2)).toNat +
          2 ^ 24 * (s.dig.readByte (4 * t + 3)).toNat) →
    step s = .next { s with inputs := l, bus := .read .okay w }

/-- R27: the layout of `STATUS`, bit by bit, with the codes of R231 and R232. -/
def Obligations.StatusLayout : Prop :=
  (∀ t : Status,
    t.toWord.getLsbD 0 = t.busy ∧ t.toWord.getLsbD 1 = t.done ∧ t.toWord.getLsbD 2 = t.prime ∧
    t.toWord.getLsbD 3 = false ∧ t.toWord.extractLsb' 4 4 = t.err.code ∧
    t.toWord.extractLsb' 8 4 = t.sub.code ∧ t.toWord.getLsbD 12 = t.sx ∧
    t.toWord.getLsbD 13 = t.sy ∧ t.toWord.getLsbD 14 = t.ovr ∧
    (∀ k, 15 ≤ k → t.toWord.getLsbD k = false)) ∧
  [ErrKind.ok, .invalidArgument, .noInverse, .illegalCommand].map (·.code.toNat) = [0, 1, 2, 3] ∧
  [SubCause.none, .nonpositiveModulus, .negativeExponent, .modulusTooSmall, .badLength, .badDigit,
    .groupTooLarge].map (·.code.toNat) = [0, 1, 2, 3, 4, 5, 6]

/-- R70: a write of word `i` of an operand slot, while idle, "replaces those 32 bits of `X` and
leaves the other bits of `X` as they were"; the register stays a `W`-bit number. -/
def Obligations.OperandWordWrite : Prop :=
  ∀ (s : State) (off : BitVec 13) (v : Word) (l : List Input) (i : Nat), s.params.Legal →
    s.rstN = true → s.status.busy = false → s.inputs = .write off 0xF v :: l →
    (accessLoc s.params off = some (.opa i) → ∃ x,
      step s = .next { s with inputs := l, bus := .write .okay, opa := x } ∧
      (∀ b, x.testBit b = if b / 32 = i then v.getLsbD (b % 32) else s.opa.testBit b) ∧
      (s.opa < 2 ^ s.params.width → x < 2 ^ s.params.width)) ∧
    (accessLoc s.params off = some (.opb i) → ∃ x,
      step s = .next { s with inputs := l, bus := .write .okay, opb := x } ∧
      (∀ b, x.testBit b = if b / 32 = i then v.getLsbD (b % 32) else s.opb.testBit b) ∧
      (s.opb < 2 ^ s.params.width → x < 2 ^ s.params.width)) ∧
    (accessLoc s.params off = some (.opc i) → ∃ x,
      step s = .next { s with inputs := l, bus := .write .okay, opc := x } ∧
      (∀ b, x.testBit b = if b / 32 = i then v.getLsbD (b % 32) else s.opc.testBit b) ∧
      (s.opc < 2 ^ s.params.width → x < 2 ^ s.params.width))

/-- R71: a write of a digit word, while idle, replaces its four groups, the first in the least
significant byte, and leaves every other group as it was. -/
def Obligations.DigitWordWrite : Prop :=
  ∀ (s : State) (off : BitVec 13) (v : Word) (l : List Input) (t : Nat), s.dig.wf = true →
    s.rstN = true → s.status.busy = false → s.inputs = .write off 0xF v :: l →
    accessLoc s.params off = some (.dig t) → ∃ m,
      step s = .next { s with inputs := l, bus := .write .okay, dig := m } ∧ m.wf = true ∧
      (∀ k, k / 4 = t → (m.readByte k).toNat = v.toNat / 2 ^ (8 * (k % 4)) % 2 ^ 8) ∧
      (∀ k, k / 4 ≠ t → m.readByte k = s.dig.readByte k)

/-- R72: a write to `CMD`, an operand or the digits while a command runs is ignored, with response
`OKAY`, and sets `OVR`. -/
def Obligations.BusyWritesAreDropped : Prop :=
  ∀ (s : State) (off : BitVec 13) (v : Word) (loc : Loc) (l : List Input), s.rstN = true →
    s.status.busy = true → s.inputs = .write off 0xF v :: l →
    accessLoc s.params off = some loc → loc.heldWhileBusy = true →
    step s = .next { s with inputs := l, bus := .write .okay
                            status := { s.status with ovr := true } }

/-- R27, R34, R38, R72: the writes that act at any time, busy or not. `STATUS` clears `DONE` and
`OVR` by ones, `CTRL` without `SRST` sets `IE`, `BLKSEL` keeps the low half. -/
def Obligations.WritesThatActAlways : Prop :=
  ∀ (s : State) (off : BitVec 13) (v : Word) (l : List Input), s.rstN = true →
    s.inputs = .write off 0xF v :: l →
    (accessLoc s.params off = some .status →
      step s = .next { s with
        inputs := l, bus := .write .okay
        status := { s.status with
          done := if v.getLsbD 1 then false else s.status.done
          ovr := if v.getLsbD 14 then false else s.status.ovr } }) ∧
    (accessLoc s.params off = some .ctrl → v.getLsbD 1 = false →
      step s = .next { s with inputs := l, bus := .write .okay, ie := v.getLsbD 0 }) ∧
    (accessLoc s.params off = some .blksel →
      step s = .next { s with inputs := l, bus := .write .okay, blksel := v.extractLsb' 0 16 })

/-- R235: what acceptance writes, for every word, legal or not. What R235 leaves unspecified from here
on (the results, and for PACK `NBLK` and the table) the model keeps stored, unreadable until
completion: its choice (log 6). The model's round index `mrDrawn` (R41) starts at 0 (log 5). -/
def Obligations.AcceptanceOfCommandWord : Prop :=
  ∀ (s : State) (c : Word) (l : List Input), s.rstN = true → s.status.busy = false →
    s.inputs = .write 0x000 0xF c :: l →
    step s = .next { s with
      inputs := l, bus := .write .okay, cmd := c, mrDrawn := 0
      status := { busy := true, done := false, prime := false, err := .ok, sub := .none,
                  sx := false, sy := false, ovr := s.status.ovr } }

/-! ### Interrupt and reset -/

/-- R243: `irq = CTRL.IE AND STATUS.DONE`, and what raises and what lowers it: a completion with
`IE = 1`, or setting `IE` with `DONE = 1`; and a `STATUS` write with bit 1, an acceptance, a reset,
or `IE` written 0. -/
def Obligations.InterruptLevel : Prop :=
  ∀ s t : State, step s = .next t →
    (s.irq = true ↔ s.ie = true ∧ s.status.done = true) ∧
    (s.irq = false →
      (t.irq = true ↔
        (s.status.busy = true ∧ t.status.busy = false ∧ s.ie = true ∧ ¬ s.nextResets) ∨
        (s.status.done = true ∧
          ∃ v, s.nextWrites .ctrl v ∧ v.getLsbD 0 = true ∧ v.getLsbD 1 = false))) ∧
    (s.irq = true →
      (t.irq = false ↔
        (∃ v, s.nextWrites .status v ∧ v.getLsbD 1 = true) ∨
        (s.status.busy = false ∧ ∃ v, s.nextWrites .cmd v) ∨
        (∃ v, s.nextWrites .ctrl v ∧ v.getLsbD 0 = false) ∨ s.nextResets))

/-- R261, R262, R263: soft reset, busy or not. The control registers take their reset values, a
running command is abandoned without completing, the operands and digits keep their values, and so
do the parameters, the stream and its position. -/
def Obligations.SoftReset : Prop :=
  ∀ (s : State) (off : BitVec 13) (v : Word) (l : List Input), s.rstN = true →
    s.inputs = .write off 0xF v :: l → accessLoc s.params off = some .ctrl →
    v.getLsbD 1 = true → ∃ t, step s = .next t ∧
      t.cmd = 0 ∧ t.status = ⟨false, false, false, .ok, .none, false, false, false⟩ ∧
      t.ie = false ∧ t.nblk = 0 ∧ t.blksel = 0 ∧ t.rngcnt = 0 ∧ t.irq = false ∧
      t.opa = s.opa ∧ t.opb = s.opb ∧ t.opc = s.opc ∧ t.dig = s.dig ∧
      t.params = s.params ∧ t.rng = s.rng ∧ t.rpos = s.rpos ∧ t.rstN = true ∧
      t.bus = .write .okay ∧ t.inputs = l

/-- R260, R261, R263: hard reset, whatever was running: the control registers at their reset values,
no completion, the parameters, the stream and its position kept; no access is answered before
release (refused, spec/93_implementation_defined.md U23).
One input for the release is the model's (log 9). -/
def Obligations.HardReset : Prop :=
  ∀ (s : State) (l : List Input), s.inputs = .rstAssert :: l → ∃ t, step s = .next t ∧
    t.cmd = 0 ∧ t.status = ⟨false, false, false, .ok, .none, false, false, false⟩ ∧
    t.ie = false ∧ t.nblk = 0 ∧ t.blksel = 0 ∧ t.rngcnt = 0 ∧ t.irq = false ∧
    t.params = s.params ∧ t.rng = s.rng ∧ t.rpos = s.rpos ∧ t.inputs = l ∧
    (∀ off rest, step (t.withInputs (.read off :: rest)) = .refused .accessInReset) ∧
    (∀ off strobes v rest,
      step (t.withInputs (.write off strobes v :: rest)) = .refused .accessInReset) ∧
    (∀ rest, step (t.withInputs (.rstRelease :: rest)) =
      .next { t with rstN := true, inputs := rest })

/-- R43, R260: the values the spec gives for the state after hard reset. -/
def Obligations.ResetValues : Prop :=
  State.reset.cmd = 0 ∧ State.reset.status.toWord = 0 ∧ State.reset.ie = false ∧
  State.reset.nblk = 0 ∧ State.reset.blksel = 0 ∧ State.reset.rngcnt = 0 ∧
  State.reset.irq = false ∧ step State.reset = .next State.reset

/-! ### The invariant -/

/-- The invariant of Safety.lean, kept by every step from every state that has it. -/
def Obligations.StepKeepsInv : Prop :=
  ∀ s t : State, s.Inv → step s = .next t → t.Inv

/-- The invariant holds at reset. The registers the spec leaves unspecified hold the model's values
there (log 3, 4, 5). -/
def Obligations.ResetHasInv : Prop := State.reset.Inv

/-! ### The composition with the host -/

/-- R218, with the premises it names: for distinct primes, a coprime exponent, `p * q > 25` and
uppercase text that fits the block, decrypting what was encrypted gives the text back. -/
def Obligations.RsaRoundTrip : Prop :=
  ∀ (p q e lmax : Nat) (text : List Char), Nat.Prime p → Nat.Prime q → p ≠ q →
    Nat.Coprime e ((p - 1) * (q - 1)) → 25 < p * q → text.length ≤ lmax →
    (∀ ch ∈ text, 65 ≤ ch.toNat ∧ ch.toNat ≤ 90) →
    ∃ (d : Nat) (cs : List (Nat × Nat)),
      derivePrivateExponent (e : Int) (((p - 1) * (q - 1) : Nat) : Int) = .ok d ∧
      encryptText lmax text (e : Int) ((p * q : Nat) : Int) = .ok cs ∧
      decryptBlocks cs (d : Int) ((p * q : Nat) : Int) = .ok text
end

