-- ==== Sys2Proof/Laws/Fuel.lean ====
section
/-! SUPPORT. The fuel of the recursive functions is enough: more of it changes nothing, so the functions obey their equations without it. -/

namespace Sys2Proof.Machine

/-- The remainder of floor division is below the divisor (spec/00_scope.md R9). -/
theorem natAbs_sub_fdiv_mul_lt (a : Int) {b : Int} (hb : b ≠ 0) :
    (a - a.fdiv b * b).natAbs < b.natAbs := by
  have h : a - a.fdiv b * b = a.fmod b := by
    have := Int.mul_fdiv_add_fmod a b
    rw [Int.mul_comm] at this
    omega
  rw [h]
  rcases Int.lt_or_gt_of_ne hb with h0 | h0
  · have h1 := Int.fmod_nonneg_of_pos (-a) (b := -b) (by omega)
    have h2 := Int.fmod_lt_of_pos (-a) (b := -b) (by omega)
    rw [Int.neg_fmod_neg] at h1 h2
    omega
  · have h1 := Int.fmod_nonneg_of_pos a h0
    have h2 := Int.fmod_lt_of_pos a h0
    omega

/-- Fuel beyond `|b|` changes nothing. -/
theorem xgcdFuel_eq (f : Nat) (a b : Int) (h : b.natAbs ≤ f) : xgcdFuel f a b = xgcd a b := by
  suffices H : ∀ f f' a b, Int.natAbs b ≤ f → Int.natAbs b ≤ f' → xgcdFuel f a b = xgcdFuel f' a b by
    exact H f b.natAbs a b h (Nat.le_refl _)
  intro f
  induction f with
  | zero =>
    intro f' a b hf _
    have hb : b = 0 := by omega
    cases f' <;> simp [xgcdFuel, hb]
  | succ f ih =>
    intro f' a b hf hf'
    by_cases hb : b = 0
    · cases f' <;> simp [xgcdFuel, hb]
    · obtain ⟨f', rfl⟩ : ∃ k, f' = k + 1 := ⟨f' - 1, by omega⟩
      have hlt := natAbs_sub_fdiv_mul_lt a hb
      simp only [xgcdFuel, if_neg hb]
      rw [ih f' b _ (by omega) (by omega)]

/-- Fuel beyond the exponent changes nothing. -/
theorem modexpLoop_fuel (m : Nat) : ∀ f f' res base e : Nat, e ≤ f → e ≤ f' →
    modexpLoop m f res base e = modexpLoop m f' res base e := by
  intro f
  induction f with
  | zero =>
    intro f' res base e hf _
    obtain rfl : e = 0 := by omega
    cases f' <;> simp [modexpLoop]
  | succ f ih =>
    intro f' res base e hf hf'
    by_cases he : e = 0
    · cases f' <;> simp [modexpLoop, he]
    · obtain ⟨f', rfl⟩ : ∃ k, f' = k + 1 := ⟨f' - 1, by omega⟩
      simp only [modexpLoop, if_neg he]
      exact ih f' _ _ _ (by omega) (by omega)

/-- One iteration of R146's loop, the fuel that of the exponent. -/
theorem modexpLoop_step (m res base e : Nat) (he : e ≠ 0) :
    modexpLoop m e res base e =
      modexpLoop m (e / 2) (if e % 2 = 1 then res * base % m else res) (base * base % m) (e / 2) := by
  obtain ⟨f, rfl⟩ : ∃ k, e = k + 1 := ⟨e - 1, by omega⟩
  simp only [modexpLoop, if_neg he]
  exact modexpLoop_fuel m _ _ _ _ _ (by omega) (Nat.le_refl _)

/-- Fuel beyond a positive number changes nothing. -/
theorem oddPartFuel_fuel : ∀ f f' m : Nat, 0 < m → m ≤ f → m ≤ f' →
    oddPartFuel f m = oddPartFuel f' m := by
  intro f
  induction f with
  | zero => intro f' m h0 hf; omega
  | succ f ih =>
    intro f' m h0 hf hf'
    obtain ⟨f', rfl⟩ : ∃ k, f' = k + 1 := ⟨f' - 1, by omega⟩
    simp only [oddPartFuel]
    split
    next h2 => rw [ih f' (m / 2) (by omega) (by omega) (by omega)]
    next => rfl

/-- The words of a round that passed are drawn one by one: with fewer words than rounds and every
round passing, no verdict is reached. -/
theorem mrRounds_draws_le (n : Nat) : ∀ (k : Nat) (ws : List Nat),
    (mrRounds n k ws).draws ≤ k ∧ (mrRounds n k ws).draws ≤ ws.length := by
  intro k
  induction k with
  | zero => intro ws; simp [mrRounds]
  | succ k ih =>
    intro ws
    cases ws with
    | nil => simp [mrRounds]
    | cons w ws =>
      have := ih ws
      simp only [mrRounds]
      split
      next => simp only [List.length_cons]; omega
      next => simp

/-- No verdict means that every word was drawn. -/
theorem mrRounds_none_draws (n : Nat) : ∀ (k : Nat) (ws : List Nat),
    (mrRounds n k ws).verdict = none → (mrRounds n k ws).draws = ws.length := by
  intro k
  induction k with
  | zero => intro ws h; simp [mrRounds] at h
  | succ k ih =>
    intro ws h
    cases ws with
    | nil => simp [mrRounds]
    | cons w ws =>
      simp only [mrRounds] at h ⊢
      split at h
      next hp =>
        simp only [hp, if_true, List.length_cons]
        exact congrArg (· + 1) (ih ws h)
      next => simp at h

end Sys2Proof.Machine
end

