-- ==== Sys2Proof/Machine/HostNotation.lean ====
section
/-! DEFINITION. The host notation of spec/30_encoding.md R99 to R102 as scripts for the machine: primitive lines, command lines, pseudo-instructions and call forms, and the end of a host program's run (spec/00_scope.md R16). EXPECT is not an access and has no line. What the forms do outside the ranges their rules give is log 12. -/

namespace Sys2Proof.Machine

/-- A primitive line (R99). -/
inductive HostLine where
  /-- `WR off, v`. -/
  | wr (off : BitVec 13) (v : Word)
  /-- `RD off`. -/
  | rd (off : BitVec 13)
  /-- `WAIT`. -/
  | wait
  /-- `WAITIRQ`. -/
  | waitIrq
deriving DecidableEq, Repr

/-- The move a line makes (R99): a write has all four strobes (R63). -/
def HostLine.input : HostLine → Input
  | .wr off v => .write off 0xF v
  | .rd off => .read off
  | .wait => .wait
  | .waitIrq => .waitIrq

/-- A host program as a script (R102: "a finite list of lines"). -/
def hostScript (l : List HostLine) : List Input := l.map HostLine.input

/-- A command line (R100): one write of the command word to `CMD`. -/
def commandLine (i : Instr) : HostLine := .wr 0x000 (encode i)

/-- The writes that fill a slot, low word first (R101: `m <= MAXMAG`). DESIGN CHOICE, log 12: of a
larger number the words above the slot are not written. -/
def loadSlot (p : Params) (base m : Nat) : List HostLine :=
  (List.range p.nw).map fun i => .wr (BitVec.ofNat 13 (base + 4 * i)) (slotWord m i)

/-- `LDA m` (R101). -/
def lda (p : Params) (m : Nat) : List HostLine := loadSlot p 0x200 m
/-- `LDB m` (R101). -/
def ldb (p : Params) (m : Nat) : List HostLine := loadSlot p 0x400 m
/-- `LDC m` (R101). -/
def ldc (p : Params) (m : Nat) : List HostLine := loadSlot p 0x600 m

/-- The digit words of a list of groups, missing groups taken as 0 (R101). -/
def digitWords : List Byte → List Word
  | a :: b :: c :: d :: gs => (d ++ c ++ b ++ a) :: digitWords gs
  | [a, b, c] => [(0 : Byte) ++ c ++ b ++ a]
  | [a, b] => [(0 : BitVec 16) ++ b ++ a]
  | [a] => [(0 : BitVec 24) ++ a]
  | [] => []

/-- `LDDIG g0 g1 ...` (R101). DESIGN CHOICE, log 12: with more than 4096 groups the rule's offset
`0x1000 + 4*t` leaves the 13-bit window, of which the spec says nothing; it is taken modulo `2^13`
here, so such a write goes to offset `4*t - 0x1000`, the first one to `CMD`. -/
def lddig (gs : List Byte) : List HostLine :=
  (digitWords gs).zipIdx.map fun w => .wr (BitVec.ofNat 13 (0x1000 + 4 * w.2)) w.1

/-- The reads of a slot, low word first (R101). -/
def readSlot (p : Params) (base : Nat) : List HostLine :=
  (List.range p.nw).map fun i => .rd (BitVec.ofNat 13 (base + 4 * i))

/-- `RDR0` (R101). -/
def rdr0 (p : Params) : List HostLine := readSlot p 0x800
/-- `RDR1` (R101). -/
def rdr1 (p : Params) : List HostLine := readSlot p 0xA00
/-- `RDR2` (R101). -/
def rdr2 (p : Params) : List HostLine := readSlot p 0xC00

/-- `RDBLK j` (R101). DESIGN CHOICE, log 12: an index of more than 32 bits is written modulo `2^32`. -/
def rdblk (p : Params) (j : Nat) : List HostLine :=
  [.wr 0x010 (BitVec.ofNat 32 j), .rd 0x014] ++ readSlot p 0xE00

/-- The sign of a call's argument: minus exactly below 0 (R102). -/
def callSign (v : Int) : Bool := decide (v < 0)

/-- `xgcd a, b` (R102). -/
def callXgcd (p : Params) (a b : Int) : List HostLine :=
  lda p a.natAbs ++ ldb p b.natAbs ++ [commandLine (.xgcd (callSign a) (callSign b)), .wait]

/-- `modinv a, m` (R102). -/
def callModinv (p : Params) (a m : Int) : List HostLine :=
  lda p a.natAbs ++ ldc p m.natAbs ++ [commandLine (.modinv (callSign a) (callSign m)), .wait]

/-- `modexp b, e, m` (R102). -/
def callModexp (p : Params) (b e m : Int) : List HostLine :=
  lda p b.natAbs ++ ldb p e.natAbs ++ ldc p m.natAbs ++
    [commandLine (.modexp (callSign b) (callSign e) (callSign m)), .wait]

/-- `mrprime n, rounds` (R102). -/
def callMrprime (p : Params) (n : Int) (rounds : Nat) : List HostLine :=
  lda p n.natAbs ++ [commandLine (.mrprime (callSign n) rounds), .wait]

/-- `pack m, g0 ... g(k-1)` (R102). DESIGN CHOICE, log 12: a count above 65535, which R100 does not
admit, goes into the command word modulo `2^16`; so do the rounds of callMrprime. -/
def callPack (p : Params) (m : Int) (gs : List Byte) : List HostLine :=
  ldc p m.natAbs ++ lddig gs ++ [commandLine (.pack (callSign m) gs.length), .wait]

/-- A move of the host: a bus access or a wait (R16, R99). -/
def Input.isHost : Input → Bool
  | .read _ => true
  | .write _ _ _ => true
  | .wait => true
  | .waitIrq => true
  | .engine => false
  | .rngOffer _ => false
  | .rstAssert => false
  | .rstRelease => false

/-- The host's run has ended (R16): "the host has performed its last access and `STATUS.BUSY = 0`",
whatever moves of the other agents are still to come. -/
def State.ended (s : State) : Bool := !s.inputs.any Input.isHost && !s.status.busy

/-- The end state of a run (R16), looked for in `k` steps: the first state in which it has ended; none
when it has not ended by then, or stops before. -/
def State.endState : Nat → State → Option State
  | 0, s => if s.ended then some s else none
  | k + 1, s =>
    if s.ended then some s
    else match step s with
      | .next t => State.endState k t
      | .fault _ => none
      | .refused _ => none

end Sys2Proof.Machine
end

