-- ==== Sys2Proof/Laws/HostRun.lean ====
section
/-! SUPPORT. The end of a host program's run (spec/00_scope.md R16). -/

namespace Sys2Proof.Machine

/-- A run has ended when no move of the host is left and no command runs; what the other agents do
later does not matter. -/
theorem ended_iff (s : State) :
    s.ended = true ↔ (∀ e ∈ s.inputs, e.isHost = false) ∧ s.status.busy = false := by
  simp [State.ended]

/-- In a state whose run has ended, that state is the end state. -/
theorem endState_of_ended {s : State} (h : s.ended = true) (k : Nat) : s.endState k = some s := by
  cases k <;> simp [State.endState, h]

/-- An end state is a state whose run has ended. -/
theorem ended_of_endState {k : Nat} {s t : State} (h : s.endState k = some t) :
    t.ended = true := by
  induction k generalizing s with
  | zero =>
    simp only [State.endState] at h
    split at h
    next he => cases h; exact he
    next => cases h
  | succ k ih =>
    simp only [State.endState] at h
    split at h
    next he => cases h; exact he
    next =>
      split at h
      next => exact ih h
      next => cases h
      next => cases h

end Sys2Proof.Machine
end

