-- ==== Sys2Proof/Laws/Memory.lean ====
section
/-! SUPPORT. The digit buffer: a byte read after a write, the canonical form kept by every operation, and the buffer's bound. -/

namespace Sys2Proof.Machine

theorem Memory.readByte_consCell (k : Nat) (v : Byte) (m : Memory) (j : Nat)
    (hm : k = j → v = Memory.unlisted → m.readByte j = Memory.unlisted) :
    (Memory.consCell k v m).readByte j = if k = j then v else m.readByte j := by
  unfold Memory.consCell
  split
  next hv =>
    split
    next hk => rw [hm hk hv, hv]
    next => rfl
  next => rfl

/-- Below the first cell of a canonical buffer nothing is listed. -/
theorem Memory.readByte_of_lt {lo j : Nat} {m : Memory} (h : m.wfFrom lo = true) (hj : j < lo) :
    m.readByte j = Memory.unlisted := by
  induction m generalizing lo with
  | nil => rfl
  | cons c m ih =>
    obtain ⟨a, b⟩ := c
    simp only [Memory.wfFrom, Bool.and_eq_true, decide_eq_true_eq] at h
    simp only [Memory.readByte]
    rw [if_neg (by omega)]
    exact ih h.2 (by omega)

/-- Read after write: the byte written, and every other byte as before. -/
theorem Memory.readByte_writeByte {lo : Nat} {m : Memory} (h : m.wfFrom lo = true) (k : Nat)
    (v : Byte) (j : Nat) :
    (m.writeByte k v).readByte j = if k = j then v else m.readByte j := by
  induction m generalizing lo with
  | nil => exact Memory.readByte_consCell k v [] j fun _ _ => rfl
  | cons c m ih =>
    obtain ⟨a, b⟩ := c
    have hw := h
    simp only [Memory.wfFrom, Bool.and_eq_true, decide_eq_true_eq] at h
    simp only [Memory.writeByte]
    split
    next hlt =>
      refine Memory.readByte_consCell k v _ j fun hk _ => ?_
      simp only [Memory.readByte]
      rw [if_neg (by omega)]
      exact Memory.readByte_of_lt h.2 (by omega)
    next hlt =>
      split
      next heq =>
        subst heq
        rw [Memory.readByte_consCell k v m j fun hk _ => ?_]
        · simp only [Memory.readByte]
          split <;> rfl
        · exact Memory.readByte_of_lt h.2 (by omega)
      next hne =>
        simp only [Memory.readByte]
        split
        next haj => rw [if_neg (by omega)]
        next => exact ih h.2

theorem Memory.wfFrom_mono {lo lo' : Nat} {m : Memory} (h : m.wfFrom lo = true) (hle : lo' ≤ lo) :
    m.wfFrom lo' = true := by
  cases m with
  | nil => rfl
  | cons c m =>
    obtain ⟨a, b⟩ := c
    simp only [Memory.wfFrom, Bool.and_eq_true, decide_eq_true_eq] at h ⊢
    exact ⟨⟨by omega, h.1.2⟩, h.2⟩

theorem Memory.consCell_wfFrom {lo k : Nat} {v : Byte} {m : Memory} (hk : lo ≤ k)
    (h : m.wfFrom (k + 1) = true) : (Memory.consCell k v m).wfFrom lo = true := by
  unfold Memory.consCell
  split
  next => exact Memory.wfFrom_mono h (by omega)
  next hv => simp [Memory.wfFrom, hk, hv, h]

theorem Memory.writeByte_wfFrom {lo : Nat} {m : Memory} (h : m.wfFrom lo = true) {k : Nat}
    (hk : lo ≤ k) (v : Byte) : (m.writeByte k v).wfFrom lo = true := by
  induction m generalizing lo with
  | nil => exact Memory.consCell_wfFrom hk rfl
  | cons c m ih =>
    obtain ⟨a, b⟩ := c
    have hw := h
    simp only [Memory.wfFrom, Bool.and_eq_true, decide_eq_true_eq] at h
    simp only [Memory.writeByte]
    split
    next hlt =>
      refine Memory.consCell_wfFrom hk ?_
      simp only [Memory.wfFrom, Bool.and_eq_true, decide_eq_true_eq]
      exact ⟨⟨by omega, h.1.2⟩, h.2⟩
    next hlt =>
      split
      next heq => subst heq; exact Memory.consCell_wfFrom hk h.2
      next hne =>
        simp only [Memory.wfFrom, Bool.and_eq_true, decide_eq_true_eq]
        exact ⟨h.1, ih h.2 (by omega)⟩

/-- A byte written keeps the canonical form. -/
theorem Memory.writeByte_wf {m : Memory} (h : m.wf = true) (k : Nat) (v : Byte) :
    (m.writeByte k v).wf = true :=
  Memory.writeByte_wfFrom h (Nat.zero_le k) v

/-- A word written keeps the canonical form. -/
theorem Memory.writeWord_wf {m : Memory} (h : m.wf = true) (t : Nat) (v : Word) :
    (m.writeWord t v).wf = true :=
  Memory.writeByte_wf (Memory.writeByte_wf (Memory.writeByte_wf (Memory.writeByte_wf h _ _) _ _) _ _) _ _

/-- Filling a buffer gives the canonical form. -/
theorem Memory.fill_wfFrom (f : Nat → Byte) (k n : Nat) : (Memory.fill f k n).wfFrom k = true := by
  induction n generalizing k with
  | zero => rfl
  | succ n ih => exact Memory.consCell_wfFrom (Nat.le_refl k) (ih (k + 1))

theorem Memory.fill_wf (f : Nat → Byte) (n : Nat) : (Memory.fill f 0 n).wf = true :=
  Memory.fill_wfFrom f 0 n

/-- Every byte of a filled buffer reads as its index says. -/
theorem Memory.readByte_fill (f : Nat → Byte) (k n j : Nat) (hk : k ≤ j) (hj : j < k + n) :
    (Memory.fill f k n).readByte j = f j := by
  induction n generalizing k with
  | zero => omega
  | succ n ih =>
    simp only [Memory.fill]
    rw [Memory.readByte_consCell]
    · split
      next h => rw [h]
      next h => exact ih (k + 1) (by omega) (by omega)
    · intro h _
      exact Memory.readByte_of_lt (Memory.fill_wfFrom f (k + 1) n) (by omega)

theorem Memory.mem_consCell {c : Host.Cell} {k : Nat} {v : Byte} {m : Memory}
    (h : c ∈ Memory.consCell k v m) : c.1 = k ∨ c ∈ m := by
  unfold Memory.consCell at h
  split at h
  next => exact .inr h
  next => exact (List.mem_cons.1 h).imp (fun e => by rw [e]) id

/-- A byte written lists no key but its own and those already listed. -/
theorem Memory.mem_writeByte {c : Host.Cell} {m : Memory} {k : Nat} {v : Byte}
    (h : c ∈ m.writeByte k v) : c.1 = k ∨ c ∈ m := by
  induction m with
  | nil => exact Memory.mem_consCell h
  | cons d m ih =>
    obtain ⟨a, b⟩ := d
    simp only [Memory.writeByte] at h
    split at h
    next => exact Memory.mem_consCell h
    next =>
      split at h
      next => exact (Memory.mem_consCell h).imp id fun h => List.mem_cons_of_mem _ h
      next =>
        rcases List.mem_cons.1 h with h | h
        · exact .inr (by rw [h]; exact List.mem_cons_self)
        · exact (ih h).imp id fun h => List.mem_cons_of_mem _ h

/-- A word written stays within the buffer. -/
theorem Memory.writeWord_bound {m : Memory} {n t : Nat} (h : ∀ c ∈ m, c.1 < n) (ht : 4 * t + 3 < n)
    (v : Word) : ∀ c ∈ m.writeWord t v, c.1 < n := by
  intro c hc
  rcases Memory.mem_writeByte hc with e | hc
  · omega
  rcases Memory.mem_writeByte hc with e | hc
  · omega
  rcases Memory.mem_writeByte hc with e | hc
  · omega
  rcases Memory.mem_writeByte hc with e | hc
  · omega
  exact h c hc

theorem Memory.fill_bound (f : Nat → Byte) (k n : Nat) : ∀ c ∈ Memory.fill f k n, c.1 < k + n := by
  induction n generalizing k with
  | zero => intro c hc; cases hc
  | succ n ih =>
    intro c hc
    rcases Memory.mem_consCell hc with e | hc
    · omega
    · have := ih (k + 1) c hc; omega

/-- The bytes after a word is written (R71): its four bytes, and every other byte as before. -/
theorem Memory.readByte_writeWord {m : Memory} (h : m.wf = true) (t : Nat) (v : Word) (j : Nat) :
    (m.writeWord t v).readByte j =
      if j / 4 = t then wordByte v (j % 4) else m.readByte j := by
  have h0 := Memory.writeByte_wf h (4 * t) (wordByte v 0)
  have h1 := Memory.writeByte_wf h0 (4 * t + 1) (wordByte v 1)
  have h2 := Memory.writeByte_wf h1 (4 * t + 2) (wordByte v 2)
  unfold Memory.writeWord
  rw [Memory.readByte_writeByte h2, Memory.readByte_writeByte h1, Memory.readByte_writeByte h0,
    Memory.readByte_writeByte h]
  by_cases hj : j / 4 = t
  · rw [if_pos hj]
    have : j % 4 = 0 ∨ j % 4 = 1 ∨ j % 4 = 2 ∨ j % 4 = 3 := by omega
    rcases this with e | e | e | e <;> rw [e]
    · rw [if_neg (by omega), if_neg (by omega), if_neg (by omega), if_pos (by omega)]
    · rw [if_neg (by omega), if_neg (by omega), if_pos (by omega)]
    · rw [if_neg (by omega), if_pos (by omega)]
    · rw [if_pos (by omega)]
  · rw [if_neg (by omega), if_neg (by omega), if_neg (by omega), if_neg (by omega), if_neg hj]

/-- Canonical buffers that read alike are equal. -/
theorem Memory.ext_of_wfFrom {lo lo' : Nat} {m m' : Memory} (h : m.wfFrom lo = true)
    (h' : m'.wfFrom lo' = true) (hr : ∀ j, m.readByte j = m'.readByte j) : m = m' := by
  induction m generalizing lo lo' m' with
  | nil =>
    cases m' with
    | nil => rfl
    | cons c m' =>
      obtain ⟨a, b⟩ := c
      simp only [Memory.wfFrom, Bool.and_eq_true, bne_iff_ne, ne_eq] at h'
      have := hr a
      simp [Memory.readByte] at this
      exact absurd this.symm h'.1.2
  | cons c m ih =>
    obtain ⟨a, b⟩ := c
    simp only [Memory.wfFrom, Bool.and_eq_true, bne_iff_ne, ne_eq, decide_eq_true_eq] at h
    cases m' with
    | nil =>
      have := hr a
      simp [Memory.readByte] at this
      exact absurd this h.1.2
    | cons c' m' =>
      obtain ⟨a', b'⟩ := c'
      simp only [Memory.wfFrom, Bool.and_eq_true, bne_iff_ne, ne_eq, decide_eq_true_eq] at h'
      have e : a = a' := by
        rcases Nat.lt_trichotomy a a' with hl | hl | hl
        · have := hr a
          simp only [Memory.readByte, if_true] at this
          rw [if_neg (by omega), Memory.readByte_of_lt h'.2 (by omega)] at this
          exact absurd this h.1.2
        · exact hl
        · have := hr a'
          simp only [Memory.readByte, if_true] at this
          rw [if_neg (by omega), Memory.readByte_of_lt h.2 (by omega)] at this
          exact absurd this.symm h'.1.2
      subst e
      have eb : b = b' := by have := hr a; simpa [Memory.readByte] using this
      subst eb
      refine congrArg _ (ih h.2 h'.2 fun j => ?_)
      by_cases hj : a = j
      · rw [Memory.readByte_of_lt h.2 (by omega), Memory.readByte_of_lt h'.2 (by omega)]
      · have := hr j
        simpa [Memory.readByte, hj] using this

end Sys2Proof.Machine
end

