-- ==== Sys2Proof/Laws/PerInstr.lean ====
section
/-! SUPPORT. The fields of a command word (spec/30_encoding.md R91), and what holds of every command's word, command by command. -/

namespace Sys2Proof

theorem fieldOpc_commandWord (opc : Byte) (sa sb sc : Bool) (imm : Half) :
    fieldOpc (commandWord opc sa sb sc imm) = opc := by
  refine BitVec.eq_of_getLsbD_eq fun k hk => ?_
  simp only [fieldOpc, commandWord, BitVec.getLsbD_extractLsb', BitVec.getLsbD_append]
  simp only [Nat.zero_add, hk, decide_true, Bool.true_and, if_true]

theorem fieldSa_commandWord (opc : Byte) (sa sb sc : Bool) (imm : Half) :
    fieldSa (commandWord opc sa sb sc imm) = sa := by
  simp only [fieldSa, commandWord, BitVec.getLsbD_append]
  cases sa <;> simp

theorem fieldSb_commandWord (opc : Byte) (sa sb sc : Bool) (imm : Half) :
    fieldSb (commandWord opc sa sb sc imm) = sb := by
  simp only [fieldSb, commandWord, BitVec.getLsbD_append]
  cases sb <;> simp

theorem fieldSc_commandWord (opc : Byte) (sa sb sc : Bool) (imm : Half) :
    fieldSc (commandWord opc sa sb sc imm) = sc := by
  simp only [fieldSc, commandWord, BitVec.getLsbD_append]
  cases sc <;> simp

theorem fieldRsv_commandWord (opc : Byte) (sa sb sc : Bool) (imm : Half) :
    fieldRsv (commandWord opc sa sb sc imm) = 0 := by
  refine BitVec.eq_of_getLsbD_eq fun k hk => ?_
  have h : k = 0 ∨ k = 1 ∨ k = 2 ∨ k = 3 ∨ k = 4 := by omega
  simp only [fieldRsv, commandWord, BitVec.getLsbD_extractLsb', BitVec.getLsbD_append]
  rcases h with rfl | rfl | rfl | rfl | rfl <;> simp

theorem fieldImm_commandWord (opc : Byte) (sa sb sc : Bool) (imm : Half) :
    fieldImm (commandWord opc sa sb sc imm) = imm := by
  refine BitVec.eq_of_getLsbD_eq fun k hk => ?_
  simp only [fieldImm, commandWord, BitVec.getLsbD_extractLsb', BitVec.getLsbD_append, hk,
    decide_true, Bool.true_and]
  rw [if_neg (by omega), if_neg (by omega), if_neg (by omega), if_neg (by omega),
    if_neg (by omega)]
  congr 1
  omega

end Sys2Proof

/-- A command's word has its opcode in `OPC` and zeros in `RSV` (R91, R94, R95). -/
def Sys2Proof.Laws.Fields.Statement (i : Sys2Proof.Instr) : Prop :=
  Sys2Proof.fieldOpc (Sys2Proof.encode i) = i.opcode ∧
    Sys2Proof.fieldRsv (Sys2Proof.encode i) = 0

theorem Sys2Proof.Laws.Fields.xgcd (sa sb : Bool) :
    Sys2Proof.Laws.Fields.Statement (.xgcd sa sb) :=
  ⟨Sys2Proof.fieldOpc_commandWord _ _ _ _ _, Sys2Proof.fieldRsv_commandWord _ _ _ _ _⟩

theorem Sys2Proof.Laws.Fields.modinv (sa sc : Bool) :
    Sys2Proof.Laws.Fields.Statement (.modinv sa sc) :=
  ⟨Sys2Proof.fieldOpc_commandWord _ _ _ _ _, Sys2Proof.fieldRsv_commandWord _ _ _ _ _⟩

theorem Sys2Proof.Laws.Fields.modexp (sa sb sc : Bool) :
    Sys2Proof.Laws.Fields.Statement (.modexp sa sb sc) :=
  ⟨Sys2Proof.fieldOpc_commandWord _ _ _ _ _, Sys2Proof.fieldRsv_commandWord _ _ _ _ _⟩

theorem Sys2Proof.Laws.Fields.mrprime (sa : Bool) (rounds : Nat) :
    Sys2Proof.Laws.Fields.Statement (.mrprime sa rounds) :=
  ⟨Sys2Proof.fieldOpc_commandWord _ _ _ _ _, Sys2Proof.fieldRsv_commandWord _ _ _ _ _⟩

theorem Sys2Proof.Laws.Fields.pack (sc : Bool) (ngrp : Nat) :
    Sys2Proof.Laws.Fields.Statement (.pack sc ngrp) :=
  ⟨Sys2Proof.fieldOpc_commandWord _ _ _ _ _, Sys2Proof.fieldRsv_commandWord _ _ _ _ _⟩
end

