-- ==== Sys2Proof/Laws/Slots.lean ====
section
/-! SUPPORT. Slot words (spec/20_memory.md R70): what a word reads as a number, and the bits and the bound of a register after a word is written. -/

namespace Sys2Proof.Machine

/-- Word `i` as a number: bits `[32*i+31 : 32*i]`. -/
theorem slotWord_toNat (x i : Nat) : (slotWord x i).toNat = x / 2 ^ (32 * i) % 2 ^ 32 := by
  simp [slotWord]

/-- The bits of a register after word `i` is written: the word's in place, the others as before. -/
theorem testBit_putSlotWord (x i : Nat) (v : Word) (b : Nat) :
    (putSlotWord x i v).testBit b = if b / 32 = i then v.getLsbD (b % 32) else x.testBit b := by
  have hv : v.toNat < 2 ^ 32 := v.isLt
  have hp : 2 ^ (32 * (i + 1)) = 2 ^ (32 * i) * 2 ^ 32 := by rw [← Nat.pow_add]; congr 1
  have hsum : putSlotWord x i v =
      2 ^ (32 * i) * (2 ^ 32 * (x / 2 ^ (32 * (i + 1))) + v.toNat) + x % 2 ^ (32 * i) := by
    unfold putSlotWord
    rw [hp]
    generalize (2 : Nat) ^ 32 = q
    ring
  have hlow : x % 2 ^ (32 * i) < 2 ^ (32 * i) := Nat.mod_lt _ (Nat.two_pow_pos _)
  have hin : (2 ^ 32 * (x / 2 ^ (32 * (i + 1))) + v.toNat).testBit (b - 32 * i) =
      if b - 32 * i < 32 then v.getLsbD (b - 32 * i)
      else (x / 2 ^ (32 * (i + 1))).testBit (b - 32 * i - 32) :=
    Nat.testBit_two_pow_mul_add _ hv _
  rw [hsum, Nat.testBit_two_pow_mul_add _ hlow, hin, Nat.testBit_mod_two_pow,
    Nat.testBit_div_two_pow]
  by_cases h1 : b < 32 * i
  · rw [if_pos h1, if_neg (by omega), decide_eq_true h1, Bool.true_and]
  · rw [if_neg h1]
    by_cases h2 : b - 32 * i < 32
    · rw [if_pos h2, if_pos (by omega), show b - 32 * i = b % 32 by omega]
    · rw [if_neg h2, if_neg (by omega), show b - 32 * i - 32 + 32 * (i + 1) = b by omega]

/-- A register written within its slot stays a number of `32 * n` bits. -/
theorem putSlotWord_lt {x i n : Nat} {v : Word} (hi : i < n) (hx : x < 2 ^ (32 * n)) :
    putSlotWord x i v < 2 ^ (32 * n) := by
  refine Nat.lt_pow_two_of_testBit _ fun b hb => ?_
  rw [testBit_putSlotWord, if_neg (by omega)]
  exact Nat.testBit_lt_two_pow (Nat.lt_of_lt_of_le hx (Nat.pow_le_pow_right (by omega) hb))

/-- The word written reads back. -/
theorem slotWord_putSlotWord_same (x i : Nat) (v : Word) : slotWord (putSlotWord x i v) i = v := by
  refine BitVec.eq_of_getLsbD_eq fun b hb => ?_
  rw [slotWord, BitVec.getLsbD_ofNat, Nat.testBit_div_two_pow, testBit_putSlotWord,
    if_pos (by omega)]
  rw [decide_eq_true hb, Bool.true_and]
  congr 1
  omega

/-- Every other word reads as before. -/
theorem slotWord_putSlotWord_other (x : Nat) {i j : Nat} (v : Word) (h : j ≠ i) :
    slotWord (putSlotWord x i v) j = slotWord x j := by
  refine BitVec.eq_of_getLsbD_eq fun b hb => ?_
  rw [slotWord, slotWord, BitVec.getLsbD_ofNat, BitVec.getLsbD_ofNat, Nat.testBit_div_two_pow,
    Nat.testBit_div_two_pow, testBit_putSlotWord, if_neg (by omega)]

end Sys2Proof.Machine
end

