-- ==== Sys2Proof/Laws/State.lean ====
section
/-! SUPPORT. One lemma per field of State and per update of Machine/Ops.lean, Bus.lean and Mrprime.lean, true by definition. -/

namespace Sys2Proof.Machine

variable (s : State)

/-! ### accept -/

@[simp] theorem State.accept_params (c : Word) : (s.accept c).params = s.params := rfl
@[simp] theorem State.accept_opa (c : Word) : (s.accept c).opa = s.opa := rfl
@[simp] theorem State.accept_opb (c : Word) : (s.accept c).opb = s.opb := rfl
@[simp] theorem State.accept_opc (c : Word) : (s.accept c).opc = s.opc := rfl
@[simp] theorem State.accept_res0 (c : Word) : (s.accept c).res0 = s.res0 := rfl
@[simp] theorem State.accept_res1 (c : Word) : (s.accept c).res1 = s.res1 := rfl
@[simp] theorem State.accept_res2 (c : Word) : (s.accept c).res2 = s.res2 := rfl
@[simp] theorem State.accept_dig (c : Word) : (s.accept c).dig = s.dig := rfl
@[simp] theorem State.accept_blk (c : Word) : (s.accept c).blk = s.blk := rfl
@[simp] theorem State.accept_cmd (c : Word) : (s.accept c).cmd = c := rfl
@[simp] theorem State.accept_status (c : Word) : (s.accept c).status = s.status.accepted := rfl
@[simp] theorem State.accept_ie (c : Word) : (s.accept c).ie = s.ie := rfl
@[simp] theorem State.accept_nblk (c : Word) : (s.accept c).nblk = s.nblk := rfl
@[simp] theorem State.accept_blksel (c : Word) : (s.accept c).blksel = s.blksel := rfl
@[simp] theorem State.accept_rngcnt (c : Word) : (s.accept c).rngcnt = s.rngcnt := rfl
@[simp] theorem State.accept_mrDrawn (c : Word) : (s.accept c).mrDrawn = 0 := rfl
@[simp] theorem State.accept_rng (c : Word) : (s.accept c).rng = s.rng := rfl
@[simp] theorem State.accept_rpos (c : Word) : (s.accept c).rpos = s.rpos := rfl
@[simp] theorem State.accept_rstN (c : Word) : (s.accept c).rstN = s.rstN := rfl
@[simp] theorem State.accept_bus (c : Word) : (s.accept c).bus = s.bus := rfl
@[simp] theorem State.accept_inputs (c : Word) : (s.accept c).inputs = s.inputs := rfl
@[simp] theorem State.accept_freeCtr (c : Word) : (s.accept c).freeCtr = s.freeCtr := rfl

/-! ### complete -/

@[simp] theorem State.complete_params (err : ErrKind) (sub : SubCause) (r : Results) : (s.complete err sub r).params = s.params := rfl
@[simp] theorem State.complete_opa (err : ErrKind) (sub : SubCause) (r : Results) : (s.complete err sub r).opa = s.opa := rfl
@[simp] theorem State.complete_opb (err : ErrKind) (sub : SubCause) (r : Results) : (s.complete err sub r).opb = s.opb := rfl
@[simp] theorem State.complete_opc (err : ErrKind) (sub : SubCause) (r : Results) : (s.complete err sub r).opc = s.opc := rfl
@[simp] theorem State.complete_res0 (err : ErrKind) (sub : SubCause) (r : Results) : (s.complete err sub r).res0 = (r.kept err).v0 := rfl
@[simp] theorem State.complete_res1 (err : ErrKind) (sub : SubCause) (r : Results) : (s.complete err sub r).res1 = (r.kept err).v1 := rfl
@[simp] theorem State.complete_res2 (err : ErrKind) (sub : SubCause) (r : Results) : (s.complete err sub r).res2 = (r.kept err).v2 := rfl
@[simp] theorem State.complete_dig (err : ErrKind) (sub : SubCause) (r : Results) : (s.complete err sub r).dig = s.dig := rfl
@[simp] theorem State.complete_blk (err : ErrKind) (sub : SubCause) (r : Results) : (s.complete err sub r).blk = s.blk := rfl
@[simp] theorem State.complete_cmd (err : ErrKind) (sub : SubCause) (r : Results) : (s.complete err sub r).cmd = s.cmd := rfl
@[simp] theorem State.complete_status (err : ErrKind) (sub : SubCause) (r : Results) : (s.complete err sub r).status = s.status.completed err sub r := rfl
@[simp] theorem State.complete_ie (err : ErrKind) (sub : SubCause) (r : Results) : (s.complete err sub r).ie = s.ie := rfl
@[simp] theorem State.complete_nblk (err : ErrKind) (sub : SubCause) (r : Results) : (s.complete err sub r).nblk = s.nblk := rfl
@[simp] theorem State.complete_blksel (err : ErrKind) (sub : SubCause) (r : Results) : (s.complete err sub r).blksel = s.blksel := rfl
@[simp] theorem State.complete_rngcnt (err : ErrKind) (sub : SubCause) (r : Results) : (s.complete err sub r).rngcnt = s.rngcnt := rfl
@[simp] theorem State.complete_mrDrawn (err : ErrKind) (sub : SubCause) (r : Results) : (s.complete err sub r).mrDrawn = 0 := rfl
@[simp] theorem State.complete_rng (err : ErrKind) (sub : SubCause) (r : Results) : (s.complete err sub r).rng = s.rng := rfl
@[simp] theorem State.complete_rpos (err : ErrKind) (sub : SubCause) (r : Results) : (s.complete err sub r).rpos = s.rpos := rfl
@[simp] theorem State.complete_rstN (err : ErrKind) (sub : SubCause) (r : Results) : (s.complete err sub r).rstN = s.rstN := rfl
@[simp] theorem State.complete_bus (err : ErrKind) (sub : SubCause) (r : Results) : (s.complete err sub r).bus = s.bus := rfl
@[simp] theorem State.complete_inputs (err : ErrKind) (sub : SubCause) (r : Results) : (s.complete err sub r).inputs = s.inputs := rfl
@[simp] theorem State.complete_freeCtr (err : ErrKind) (sub : SubCause) (r : Results) : (s.complete err sub r).freeCtr = s.freeCtr := rfl

/-! ### softReset -/

@[simp] theorem State.softReset_params : s.softReset.params = s.params := rfl
@[simp] theorem State.softReset_opa : s.softReset.opa = s.opa := rfl
@[simp] theorem State.softReset_opb : s.softReset.opb = s.opb := rfl
@[simp] theorem State.softReset_opc : s.softReset.opc = s.opc := rfl
@[simp] theorem State.softReset_res0 : s.softReset.res0 = s.freeMag 0 := rfl
@[simp] theorem State.softReset_res1 : s.softReset.res1 = s.freeMag 1 := rfl
@[simp] theorem State.softReset_res2 : s.softReset.res2 = s.freeMag 2 := rfl
@[simp] theorem State.softReset_dig : s.softReset.dig = s.dig := rfl
@[simp] theorem State.softReset_blk : s.softReset.blk = [] := rfl
@[simp] theorem State.softReset_cmd : s.softReset.cmd = 0 := rfl
@[simp] theorem State.softReset_status : s.softReset.status = Status.reset := rfl
@[simp] theorem State.softReset_ie : s.softReset.ie = false := rfl
@[simp] theorem State.softReset_nblk : s.softReset.nblk = 0 := rfl
@[simp] theorem State.softReset_blksel : s.softReset.blksel = 0 := rfl
@[simp] theorem State.softReset_rngcnt : s.softReset.rngcnt = 0 := rfl
@[simp] theorem State.softReset_mrDrawn : s.softReset.mrDrawn = 0 := rfl
@[simp] theorem State.softReset_rng : s.softReset.rng = s.rng := rfl
@[simp] theorem State.softReset_rpos : s.softReset.rpos = s.rpos := rfl
@[simp] theorem State.softReset_rstN : s.softReset.rstN = s.rstN := rfl
@[simp] theorem State.softReset_bus : s.softReset.bus = s.bus := rfl
@[simp] theorem State.softReset_inputs : s.softReset.inputs = s.inputs := rfl
@[simp] theorem State.softReset_freeCtr : s.softReset.freeCtr = s.freeCtr + 3 := rfl

/-! ### hardReset -/

@[simp] theorem State.hardReset_params : s.hardReset.params = s.params := rfl
@[simp] theorem State.hardReset_opa : s.hardReset.opa = s.freeMag 3 := rfl
@[simp] theorem State.hardReset_opb : s.hardReset.opb = s.freeMag 4 := rfl
@[simp] theorem State.hardReset_opc : s.hardReset.opc = s.freeMag 5 := rfl
@[simp] theorem State.hardReset_res0 : s.hardReset.res0 = s.freeMag 0 := rfl
@[simp] theorem State.hardReset_res1 : s.hardReset.res1 = s.freeMag 1 := rfl
@[simp] theorem State.hardReset_res2 : s.hardReset.res2 = s.freeMag 2 := rfl
@[simp] theorem State.hardReset_dig : s.hardReset.dig = Memory.fill (fun k => Config.freeByte (s.freeCtr + k)) 0 s.params.lmax := rfl
@[simp] theorem State.hardReset_blk : s.hardReset.blk = [] := rfl
@[simp] theorem State.hardReset_cmd : s.hardReset.cmd = 0 := rfl
@[simp] theorem State.hardReset_status : s.hardReset.status = Status.reset := rfl
@[simp] theorem State.hardReset_ie : s.hardReset.ie = false := rfl
@[simp] theorem State.hardReset_nblk : s.hardReset.nblk = 0 := rfl
@[simp] theorem State.hardReset_blksel : s.hardReset.blksel = 0 := rfl
@[simp] theorem State.hardReset_rngcnt : s.hardReset.rngcnt = 0 := rfl
@[simp] theorem State.hardReset_mrDrawn : s.hardReset.mrDrawn = 0 := rfl
@[simp] theorem State.hardReset_rng : s.hardReset.rng = s.rng := rfl
@[simp] theorem State.hardReset_rpos : s.hardReset.rpos = s.rpos := rfl
@[simp] theorem State.hardReset_rstN : s.hardReset.rstN = false := rfl
@[simp] theorem State.hardReset_bus : s.hardReset.bus = .idle := rfl
@[simp] theorem State.hardReset_inputs : s.hardReset.inputs = s.inputs := rfl
@[simp] theorem State.hardReset_freeCtr : s.hardReset.freeCtr = s.freeCtr + 6 + s.params.lmax := rfl

/-! ### releaseReset -/

@[simp] theorem State.releaseReset_params : s.releaseReset.params = s.params := rfl
@[simp] theorem State.releaseReset_opa : s.releaseReset.opa = s.opa := rfl
@[simp] theorem State.releaseReset_opb : s.releaseReset.opb = s.opb := rfl
@[simp] theorem State.releaseReset_opc : s.releaseReset.opc = s.opc := rfl
@[simp] theorem State.releaseReset_res0 : s.releaseReset.res0 = s.res0 := rfl
@[simp] theorem State.releaseReset_res1 : s.releaseReset.res1 = s.res1 := rfl
@[simp] theorem State.releaseReset_res2 : s.releaseReset.res2 = s.res2 := rfl
@[simp] theorem State.releaseReset_dig : s.releaseReset.dig = s.dig := rfl
@[simp] theorem State.releaseReset_blk : s.releaseReset.blk = s.blk := rfl
@[simp] theorem State.releaseReset_cmd : s.releaseReset.cmd = s.cmd := rfl
@[simp] theorem State.releaseReset_status : s.releaseReset.status = s.status := rfl
@[simp] theorem State.releaseReset_ie : s.releaseReset.ie = s.ie := rfl
@[simp] theorem State.releaseReset_nblk : s.releaseReset.nblk = s.nblk := rfl
@[simp] theorem State.releaseReset_blksel : s.releaseReset.blksel = s.blksel := rfl
@[simp] theorem State.releaseReset_rngcnt : s.releaseReset.rngcnt = s.rngcnt := rfl
@[simp] theorem State.releaseReset_mrDrawn : s.releaseReset.mrDrawn = s.mrDrawn := rfl
@[simp] theorem State.releaseReset_rng : s.releaseReset.rng = s.rng := rfl
@[simp] theorem State.releaseReset_rpos : s.releaseReset.rpos = s.rpos := rfl
@[simp] theorem State.releaseReset_rstN : s.releaseReset.rstN = true := rfl
@[simp] theorem State.releaseReset_bus : s.releaseReset.bus = s.bus := rfl
@[simp] theorem State.releaseReset_inputs : s.releaseReset.inputs = s.inputs := rfl
@[simp] theorem State.releaseReset_freeCtr : s.releaseReset.freeCtr = s.freeCtr := rfl

/-! ### reply -/

@[simp] theorem State.reply_params (r : BusReply) : (s.reply r).params = s.params := rfl
@[simp] theorem State.reply_opa (r : BusReply) : (s.reply r).opa = s.opa := rfl
@[simp] theorem State.reply_opb (r : BusReply) : (s.reply r).opb = s.opb := rfl
@[simp] theorem State.reply_opc (r : BusReply) : (s.reply r).opc = s.opc := rfl
@[simp] theorem State.reply_res0 (r : BusReply) : (s.reply r).res0 = s.res0 := rfl
@[simp] theorem State.reply_res1 (r : BusReply) : (s.reply r).res1 = s.res1 := rfl
@[simp] theorem State.reply_res2 (r : BusReply) : (s.reply r).res2 = s.res2 := rfl
@[simp] theorem State.reply_dig (r : BusReply) : (s.reply r).dig = s.dig := rfl
@[simp] theorem State.reply_blk (r : BusReply) : (s.reply r).blk = s.blk := rfl
@[simp] theorem State.reply_cmd (r : BusReply) : (s.reply r).cmd = s.cmd := rfl
@[simp] theorem State.reply_status (r : BusReply) : (s.reply r).status = s.status := rfl
@[simp] theorem State.reply_ie (r : BusReply) : (s.reply r).ie = s.ie := rfl
@[simp] theorem State.reply_nblk (r : BusReply) : (s.reply r).nblk = s.nblk := rfl
@[simp] theorem State.reply_blksel (r : BusReply) : (s.reply r).blksel = s.blksel := rfl
@[simp] theorem State.reply_rngcnt (r : BusReply) : (s.reply r).rngcnt = s.rngcnt := rfl
@[simp] theorem State.reply_mrDrawn (r : BusReply) : (s.reply r).mrDrawn = s.mrDrawn := rfl
@[simp] theorem State.reply_rng (r : BusReply) : (s.reply r).rng = s.rng := rfl
@[simp] theorem State.reply_rpos (r : BusReply) : (s.reply r).rpos = s.rpos := rfl
@[simp] theorem State.reply_rstN (r : BusReply) : (s.reply r).rstN = s.rstN := rfl
@[simp] theorem State.reply_bus (r : BusReply) : (s.reply r).bus = r := rfl
@[simp] theorem State.reply_inputs (r : BusReply) : (s.reply r).inputs = s.inputs := rfl
@[simp] theorem State.reply_freeCtr (r : BusReply) : (s.reply r).freeCtr = s.freeCtr := rfl

/-! ### overrun -/

@[simp] theorem State.overrun_params : s.overrun.params = s.params := rfl
@[simp] theorem State.overrun_opa : s.overrun.opa = s.opa := rfl
@[simp] theorem State.overrun_opb : s.overrun.opb = s.opb := rfl
@[simp] theorem State.overrun_opc : s.overrun.opc = s.opc := rfl
@[simp] theorem State.overrun_res0 : s.overrun.res0 = s.res0 := rfl
@[simp] theorem State.overrun_res1 : s.overrun.res1 = s.res1 := rfl
@[simp] theorem State.overrun_res2 : s.overrun.res2 = s.res2 := rfl
@[simp] theorem State.overrun_dig : s.overrun.dig = s.dig := rfl
@[simp] theorem State.overrun_blk : s.overrun.blk = s.blk := rfl
@[simp] theorem State.overrun_cmd : s.overrun.cmd = s.cmd := rfl
@[simp] theorem State.overrun_status : s.overrun.status = s.status.overrun := rfl
@[simp] theorem State.overrun_ie : s.overrun.ie = s.ie := rfl
@[simp] theorem State.overrun_nblk : s.overrun.nblk = s.nblk := rfl
@[simp] theorem State.overrun_blksel : s.overrun.blksel = s.blksel := rfl
@[simp] theorem State.overrun_rngcnt : s.overrun.rngcnt = s.rngcnt := rfl
@[simp] theorem State.overrun_mrDrawn : s.overrun.mrDrawn = s.mrDrawn := rfl
@[simp] theorem State.overrun_rng : s.overrun.rng = s.rng := rfl
@[simp] theorem State.overrun_rpos : s.overrun.rpos = s.rpos := rfl
@[simp] theorem State.overrun_rstN : s.overrun.rstN = s.rstN := rfl
@[simp] theorem State.overrun_bus : s.overrun.bus = s.bus := rfl
@[simp] theorem State.overrun_inputs : s.overrun.inputs = s.inputs := rfl
@[simp] theorem State.overrun_freeCtr : s.overrun.freeCtr = s.freeCtr := rfl

/-! ### withInputs -/

@[simp] theorem State.withInputs_params (l : List Input) : (s.withInputs l).params = s.params := rfl
@[simp] theorem State.withInputs_opa (l : List Input) : (s.withInputs l).opa = s.opa := rfl
@[simp] theorem State.withInputs_opb (l : List Input) : (s.withInputs l).opb = s.opb := rfl
@[simp] theorem State.withInputs_opc (l : List Input) : (s.withInputs l).opc = s.opc := rfl
@[simp] theorem State.withInputs_res0 (l : List Input) : (s.withInputs l).res0 = s.res0 := rfl
@[simp] theorem State.withInputs_res1 (l : List Input) : (s.withInputs l).res1 = s.res1 := rfl
@[simp] theorem State.withInputs_res2 (l : List Input) : (s.withInputs l).res2 = s.res2 := rfl
@[simp] theorem State.withInputs_dig (l : List Input) : (s.withInputs l).dig = s.dig := rfl
@[simp] theorem State.withInputs_blk (l : List Input) : (s.withInputs l).blk = s.blk := rfl
@[simp] theorem State.withInputs_cmd (l : List Input) : (s.withInputs l).cmd = s.cmd := rfl
@[simp] theorem State.withInputs_status (l : List Input) : (s.withInputs l).status = s.status := rfl
@[simp] theorem State.withInputs_ie (l : List Input) : (s.withInputs l).ie = s.ie := rfl
@[simp] theorem State.withInputs_nblk (l : List Input) : (s.withInputs l).nblk = s.nblk := rfl
@[simp] theorem State.withInputs_blksel (l : List Input) : (s.withInputs l).blksel = s.blksel := rfl
@[simp] theorem State.withInputs_rngcnt (l : List Input) : (s.withInputs l).rngcnt = s.rngcnt := rfl
@[simp] theorem State.withInputs_mrDrawn (l : List Input) : (s.withInputs l).mrDrawn = s.mrDrawn := rfl
@[simp] theorem State.withInputs_rng (l : List Input) : (s.withInputs l).rng = s.rng := rfl
@[simp] theorem State.withInputs_rpos (l : List Input) : (s.withInputs l).rpos = s.rpos := rfl
@[simp] theorem State.withInputs_rstN (l : List Input) : (s.withInputs l).rstN = s.rstN := rfl
@[simp] theorem State.withInputs_bus (l : List Input) : (s.withInputs l).bus = s.bus := rfl
@[simp] theorem State.withInputs_inputs (l : List Input) : (s.withInputs l).inputs = l := rfl
@[simp] theorem State.withInputs_freeCtr (l : List Input) : (s.withInputs l).freeCtr = s.freeCtr := rfl

/-! ### offer -/

@[simp] theorem State.offer_params (w : Nat) : (s.offer w).params = s.params := rfl
@[simp] theorem State.offer_opa (w : Nat) : (s.offer w).opa = s.opa := rfl
@[simp] theorem State.offer_opb (w : Nat) : (s.offer w).opb = s.opb := rfl
@[simp] theorem State.offer_opc (w : Nat) : (s.offer w).opc = s.opc := rfl
@[simp] theorem State.offer_res0 (w : Nat) : (s.offer w).res0 = s.res0 := rfl
@[simp] theorem State.offer_res1 (w : Nat) : (s.offer w).res1 = s.res1 := rfl
@[simp] theorem State.offer_res2 (w : Nat) : (s.offer w).res2 = s.res2 := rfl
@[simp] theorem State.offer_dig (w : Nat) : (s.offer w).dig = s.dig := rfl
@[simp] theorem State.offer_blk (w : Nat) : (s.offer w).blk = s.blk := rfl
@[simp] theorem State.offer_cmd (w : Nat) : (s.offer w).cmd = s.cmd := rfl
@[simp] theorem State.offer_status (w : Nat) : (s.offer w).status = s.status := rfl
@[simp] theorem State.offer_ie (w : Nat) : (s.offer w).ie = s.ie := rfl
@[simp] theorem State.offer_nblk (w : Nat) : (s.offer w).nblk = s.nblk := rfl
@[simp] theorem State.offer_blksel (w : Nat) : (s.offer w).blksel = s.blksel := rfl
@[simp] theorem State.offer_rngcnt (w : Nat) : (s.offer w).rngcnt = s.rngcnt := rfl
@[simp] theorem State.offer_mrDrawn (w : Nat) : (s.offer w).mrDrawn = s.mrDrawn := rfl
@[simp] theorem State.offer_rng (w : Nat) : (s.offer w).rng = s.rng ++ [w % 2 ^ s.params.width] := rfl
@[simp] theorem State.offer_rpos (w : Nat) : (s.offer w).rpos = s.rpos := rfl
@[simp] theorem State.offer_rstN (w : Nat) : (s.offer w).rstN = s.rstN := rfl
@[simp] theorem State.offer_bus (w : Nat) : (s.offer w).bus = s.bus := rfl
@[simp] theorem State.offer_inputs (w : Nat) : (s.offer w).inputs = s.inputs := rfl
@[simp] theorem State.offer_freeCtr (w : Nat) : (s.offer w).freeCtr = s.freeCtr := rfl

/-! ### takeWords -/

@[simp] theorem State.takeWords_params (k : Nat) : (s.takeWords k).params = s.params := rfl
@[simp] theorem State.takeWords_opa (k : Nat) : (s.takeWords k).opa = s.opa := rfl
@[simp] theorem State.takeWords_opb (k : Nat) : (s.takeWords k).opb = s.opb := rfl
@[simp] theorem State.takeWords_opc (k : Nat) : (s.takeWords k).opc = s.opc := rfl
@[simp] theorem State.takeWords_res0 (k : Nat) : (s.takeWords k).res0 = s.res0 := rfl
@[simp] theorem State.takeWords_res1 (k : Nat) : (s.takeWords k).res1 = s.res1 := rfl
@[simp] theorem State.takeWords_res2 (k : Nat) : (s.takeWords k).res2 = s.res2 := rfl
@[simp] theorem State.takeWords_dig (k : Nat) : (s.takeWords k).dig = s.dig := rfl
@[simp] theorem State.takeWords_blk (k : Nat) : (s.takeWords k).blk = s.blk := rfl
@[simp] theorem State.takeWords_cmd (k : Nat) : (s.takeWords k).cmd = s.cmd := rfl
@[simp] theorem State.takeWords_status (k : Nat) : (s.takeWords k).status = s.status := rfl
@[simp] theorem State.takeWords_ie (k : Nat) : (s.takeWords k).ie = s.ie := rfl
@[simp] theorem State.takeWords_nblk (k : Nat) : (s.takeWords k).nblk = s.nblk := rfl
@[simp] theorem State.takeWords_blksel (k : Nat) : (s.takeWords k).blksel = s.blksel := rfl
@[simp] theorem State.takeWords_rngcnt (k : Nat) : (s.takeWords k).rngcnt = s.rngcnt := rfl
@[simp] theorem State.takeWords_mrDrawn (k : Nat) : (s.takeWords k).mrDrawn = s.mrDrawn := rfl
@[simp] theorem State.takeWords_rng (k : Nat) : (s.takeWords k).rng = s.rng.drop k := rfl
@[simp] theorem State.takeWords_rpos (k : Nat) : (s.takeWords k).rpos = s.rpos + k := rfl
@[simp] theorem State.takeWords_rstN (k : Nat) : (s.takeWords k).rstN = s.rstN := rfl
@[simp] theorem State.takeWords_bus (k : Nat) : (s.takeWords k).bus = s.bus := rfl
@[simp] theorem State.takeWords_inputs (k : Nat) : (s.takeWords k).inputs = s.inputs := rfl
@[simp] theorem State.takeWords_freeCtr (k : Nat) : (s.takeWords k).freeCtr = s.freeCtr := rfl

/-! ### replyFree -/

@[simp] theorem State.replyFree_params (l : Loc) : (s.replyFree l).params = s.params := rfl
@[simp] theorem State.replyFree_opa (l : Loc) : (s.replyFree l).opa = s.opa := rfl
@[simp] theorem State.replyFree_opb (l : Loc) : (s.replyFree l).opb = s.opb := rfl
@[simp] theorem State.replyFree_opc (l : Loc) : (s.replyFree l).opc = s.opc := rfl
@[simp] theorem State.replyFree_res0 (l : Loc) : (s.replyFree l).res0 = s.res0 := rfl
@[simp] theorem State.replyFree_res1 (l : Loc) : (s.replyFree l).res1 = s.res1 := rfl
@[simp] theorem State.replyFree_res2 (l : Loc) : (s.replyFree l).res2 = s.res2 := rfl
@[simp] theorem State.replyFree_dig (l : Loc) : (s.replyFree l).dig = s.dig := rfl
@[simp] theorem State.replyFree_blk (l : Loc) : (s.replyFree l).blk = s.blk := rfl
@[simp] theorem State.replyFree_cmd (l : Loc) : (s.replyFree l).cmd = s.cmd := rfl
@[simp] theorem State.replyFree_status (l : Loc) : (s.replyFree l).status = s.status := rfl
@[simp] theorem State.replyFree_ie (l : Loc) : (s.replyFree l).ie = s.ie := rfl
@[simp] theorem State.replyFree_nblk (l : Loc) : (s.replyFree l).nblk = s.nblk := rfl
@[simp] theorem State.replyFree_blksel (l : Loc) : (s.replyFree l).blksel = s.blksel := rfl
@[simp] theorem State.replyFree_rngcnt (l : Loc) : (s.replyFree l).rngcnt = s.rngcnt := rfl
@[simp] theorem State.replyFree_mrDrawn (l : Loc) : (s.replyFree l).mrDrawn = s.mrDrawn := rfl
@[simp] theorem State.replyFree_rng (l : Loc) : (s.replyFree l).rng = s.rng := rfl
@[simp] theorem State.replyFree_rpos (l : Loc) : (s.replyFree l).rpos = s.rpos := rfl
@[simp] theorem State.replyFree_rstN (l : Loc) : (s.replyFree l).rstN = s.rstN := rfl
@[simp] theorem State.replyFree_bus (l : Loc) : (s.replyFree l).bus =
    .read .okay (unspecifiedData l (Config.freeWord s.freeCtr)) := rfl
@[simp] theorem State.replyFree_inputs (l : Loc) : (s.replyFree l).inputs = s.inputs := rfl
@[simp] theorem State.replyFree_freeCtr (l : Loc) : (s.replyFree l).freeCtr = s.freeCtr + 1 := rfl

/-! ### mrWait -/

@[simp] theorem State.mrWait_params (k : Nat) : (s.mrWait k).params = s.params := rfl
@[simp] theorem State.mrWait_opa (k : Nat) : (s.mrWait k).opa = s.opa := rfl
@[simp] theorem State.mrWait_opb (k : Nat) : (s.mrWait k).opb = s.opb := rfl
@[simp] theorem State.mrWait_opc (k : Nat) : (s.mrWait k).opc = s.opc := rfl
@[simp] theorem State.mrWait_res0 (k : Nat) : (s.mrWait k).res0 = s.res0 := rfl
@[simp] theorem State.mrWait_res1 (k : Nat) : (s.mrWait k).res1 = s.res1 := rfl
@[simp] theorem State.mrWait_res2 (k : Nat) : (s.mrWait k).res2 = s.res2 := rfl
@[simp] theorem State.mrWait_dig (k : Nat) : (s.mrWait k).dig = s.dig := rfl
@[simp] theorem State.mrWait_blk (k : Nat) : (s.mrWait k).blk = s.blk := rfl
@[simp] theorem State.mrWait_cmd (k : Nat) : (s.mrWait k).cmd = s.cmd := rfl
@[simp] theorem State.mrWait_status (k : Nat) : (s.mrWait k).status = s.status := rfl
@[simp] theorem State.mrWait_ie (k : Nat) : (s.mrWait k).ie = s.ie := rfl
@[simp] theorem State.mrWait_nblk (k : Nat) : (s.mrWait k).nblk = s.nblk := rfl
@[simp] theorem State.mrWait_blksel (k : Nat) : (s.mrWait k).blksel = s.blksel := rfl
@[simp] theorem State.mrWait_rngcnt (k : Nat) : (s.mrWait k).rngcnt = s.rngcnt := rfl
@[simp] theorem State.mrWait_mrDrawn (k : Nat) : (s.mrWait k).mrDrawn = s.mrDrawn + k := rfl
@[simp] theorem State.mrWait_rng (k : Nat) : (s.mrWait k).rng = s.rng.drop k := rfl
@[simp] theorem State.mrWait_rpos (k : Nat) : (s.mrWait k).rpos = s.rpos + k := rfl
@[simp] theorem State.mrWait_rstN (k : Nat) : (s.mrWait k).rstN = s.rstN := rfl
@[simp] theorem State.mrWait_bus (k : Nat) : (s.mrWait k).bus = s.bus := rfl
@[simp] theorem State.mrWait_inputs (k : Nat) : (s.mrWait k).inputs = s.inputs := rfl
@[simp] theorem State.mrWait_freeCtr (k : Nat) : (s.mrWait k).freeCtr = s.freeCtr := rfl

/-! ### mrComplete -/

@[simp] theorem State.mrComplete_params (v : Bool) (k : Nat) : (s.mrComplete v k).params = s.params := rfl
@[simp] theorem State.mrComplete_opa (v : Bool) (k : Nat) : (s.mrComplete v k).opa = s.opa := rfl
@[simp] theorem State.mrComplete_opb (v : Bool) (k : Nat) : (s.mrComplete v k).opb = s.opb := rfl
@[simp] theorem State.mrComplete_opc (v : Bool) (k : Nat) : (s.mrComplete v k).opc = s.opc := rfl
@[simp] theorem State.mrComplete_res0 (v : Bool) (k : Nat) : (s.mrComplete v k).res0 = v.toNat := rfl
@[simp] theorem State.mrComplete_res1 (v : Bool) (k : Nat) : (s.mrComplete v k).res1 = 0 := rfl
@[simp] theorem State.mrComplete_res2 (v : Bool) (k : Nat) : (s.mrComplete v k).res2 = 0 := rfl
@[simp] theorem State.mrComplete_dig (v : Bool) (k : Nat) : (s.mrComplete v k).dig = s.dig := rfl
@[simp] theorem State.mrComplete_blk (v : Bool) (k : Nat) : (s.mrComplete v k).blk = s.blk := rfl
@[simp] theorem State.mrComplete_cmd (v : Bool) (k : Nat) : (s.mrComplete v k).cmd = s.cmd := rfl
@[simp] theorem State.mrComplete_status (v : Bool) (k : Nat) : (s.mrComplete v k).status = s.status.completed .ok .none (mrResults v) := rfl
@[simp] theorem State.mrComplete_ie (v : Bool) (k : Nat) : (s.mrComplete v k).ie = s.ie := rfl
@[simp] theorem State.mrComplete_nblk (v : Bool) (k : Nat) : (s.mrComplete v k).nblk = s.nblk := rfl
@[simp] theorem State.mrComplete_blksel (v : Bool) (k : Nat) : (s.mrComplete v k).blksel = s.blksel := rfl
@[simp] theorem State.mrComplete_rngcnt (v : Bool) (k : Nat) : (s.mrComplete v k).rngcnt = s.rngcnt + BitVec.ofNat 32 (s.mrDrawn + k) := rfl
@[simp] theorem State.mrComplete_mrDrawn (v : Bool) (k : Nat) : (s.mrComplete v k).mrDrawn = 0 := rfl
@[simp] theorem State.mrComplete_rng (v : Bool) (k : Nat) : (s.mrComplete v k).rng = s.rng.drop k := rfl
@[simp] theorem State.mrComplete_rpos (v : Bool) (k : Nat) : (s.mrComplete v k).rpos = s.rpos + k := rfl
@[simp] theorem State.mrComplete_rstN (v : Bool) (k : Nat) : (s.mrComplete v k).rstN = s.rstN := rfl
@[simp] theorem State.mrComplete_bus (v : Bool) (k : Nat) : (s.mrComplete v k).bus = s.bus := rfl
@[simp] theorem State.mrComplete_inputs (v : Bool) (k : Nat) : (s.mrComplete v k).inputs = s.inputs := rfl
@[simp] theorem State.mrComplete_freeCtr (v : Bool) (k : Nat) : (s.mrComplete v k).freeCtr = s.freeCtr := rfl

/-! ### PACK's completion -/

@[simp] theorem State.completePack_ok_params (bs : List (Nat × Nat)) : (s.completePack (.ok bs)).params = s.params := rfl
@[simp] theorem State.completePack_error_params (f : Failure) : (s.completePack (.error f)).params = s.params := rfl
@[simp] theorem State.completePack_ok_opa (bs : List (Nat × Nat)) : (s.completePack (.ok bs)).opa = s.opa := rfl
@[simp] theorem State.completePack_error_opa (f : Failure) : (s.completePack (.error f)).opa = s.opa := rfl
@[simp] theorem State.completePack_ok_opb (bs : List (Nat × Nat)) : (s.completePack (.ok bs)).opb = s.opb := rfl
@[simp] theorem State.completePack_error_opb (f : Failure) : (s.completePack (.error f)).opb = s.opb := rfl
@[simp] theorem State.completePack_ok_opc (bs : List (Nat × Nat)) : (s.completePack (.ok bs)).opc = s.opc := rfl
@[simp] theorem State.completePack_error_opc (f : Failure) : (s.completePack (.error f)).opc = s.opc := rfl
@[simp] theorem State.completePack_ok_res0 (bs : List (Nat × Nat)) : (s.completePack (.ok bs)).res0 = 0 := rfl
@[simp] theorem State.completePack_error_res0 (f : Failure) : (s.completePack (.error f)).res0 = (Results.kept f.err {}).v0 := rfl
@[simp] theorem State.completePack_ok_res1 (bs : List (Nat × Nat)) : (s.completePack (.ok bs)).res1 = 0 := rfl
@[simp] theorem State.completePack_error_res1 (f : Failure) : (s.completePack (.error f)).res1 = (Results.kept f.err {}).v1 := rfl
@[simp] theorem State.completePack_ok_res2 (bs : List (Nat × Nat)) : (s.completePack (.ok bs)).res2 = 0 := rfl
@[simp] theorem State.completePack_error_res2 (f : Failure) : (s.completePack (.error f)).res2 = (Results.kept f.err {}).v2 := rfl
@[simp] theorem State.completePack_ok_dig (bs : List (Nat × Nat)) : (s.completePack (.ok bs)).dig = s.dig := rfl
@[simp] theorem State.completePack_error_dig (f : Failure) : (s.completePack (.error f)).dig = s.dig := rfl
@[simp] theorem State.completePack_ok_blk (bs : List (Nat × Nat)) : (s.completePack (.ok bs)).blk = bs.map fun b => ⟨b.1, BitVec.ofNat 16 b.2⟩ := rfl
@[simp] theorem State.completePack_error_blk (f : Failure) : (s.completePack (.error f)).blk = [] := rfl
@[simp] theorem State.completePack_ok_cmd (bs : List (Nat × Nat)) : (s.completePack (.ok bs)).cmd = s.cmd := rfl
@[simp] theorem State.completePack_error_cmd (f : Failure) : (s.completePack (.error f)).cmd = s.cmd := rfl
@[simp] theorem State.completePack_ok_status (bs : List (Nat × Nat)) : (s.completePack (.ok bs)).status = s.status.completed .ok .none {} := rfl
@[simp] theorem State.completePack_error_status (f : Failure) : (s.completePack (.error f)).status = s.status.completed f.err f.sub {} := rfl
@[simp] theorem State.completePack_ok_ie (bs : List (Nat × Nat)) : (s.completePack (.ok bs)).ie = s.ie := rfl
@[simp] theorem State.completePack_error_ie (f : Failure) : (s.completePack (.error f)).ie = s.ie := rfl
@[simp] theorem State.completePack_ok_nblk (bs : List (Nat × Nat)) : (s.completePack (.ok bs)).nblk = BitVec.ofNat 16 bs.length := rfl
@[simp] theorem State.completePack_error_nblk (f : Failure) : (s.completePack (.error f)).nblk = 0 := rfl
@[simp] theorem State.completePack_ok_blksel (bs : List (Nat × Nat)) : (s.completePack (.ok bs)).blksel = s.blksel := rfl
@[simp] theorem State.completePack_error_blksel (f : Failure) : (s.completePack (.error f)).blksel = s.blksel := rfl
@[simp] theorem State.completePack_ok_rngcnt (bs : List (Nat × Nat)) : (s.completePack (.ok bs)).rngcnt = s.rngcnt := rfl
@[simp] theorem State.completePack_error_rngcnt (f : Failure) : (s.completePack (.error f)).rngcnt = s.rngcnt := rfl
@[simp] theorem State.completePack_ok_mrDrawn (bs : List (Nat × Nat)) : (s.completePack (.ok bs)).mrDrawn = 0 := rfl
@[simp] theorem State.completePack_error_mrDrawn (f : Failure) : (s.completePack (.error f)).mrDrawn = 0 := rfl
@[simp] theorem State.completePack_ok_rng (bs : List (Nat × Nat)) : (s.completePack (.ok bs)).rng = s.rng := rfl
@[simp] theorem State.completePack_error_rng (f : Failure) : (s.completePack (.error f)).rng = s.rng := rfl
@[simp] theorem State.completePack_ok_rpos (bs : List (Nat × Nat)) : (s.completePack (.ok bs)).rpos = s.rpos := rfl
@[simp] theorem State.completePack_error_rpos (f : Failure) : (s.completePack (.error f)).rpos = s.rpos := rfl
@[simp] theorem State.completePack_ok_rstN (bs : List (Nat × Nat)) : (s.completePack (.ok bs)).rstN = s.rstN := rfl
@[simp] theorem State.completePack_error_rstN (f : Failure) : (s.completePack (.error f)).rstN = s.rstN := rfl
@[simp] theorem State.completePack_ok_bus (bs : List (Nat × Nat)) : (s.completePack (.ok bs)).bus = s.bus := rfl
@[simp] theorem State.completePack_error_bus (f : Failure) : (s.completePack (.error f)).bus = s.bus := rfl
@[simp] theorem State.completePack_ok_inputs (bs : List (Nat × Nat)) : (s.completePack (.ok bs)).inputs = s.inputs := rfl
@[simp] theorem State.completePack_error_inputs (f : Failure) : (s.completePack (.error f)).inputs = s.inputs := rfl
@[simp] theorem State.completePack_ok_freeCtr (bs : List (Nat × Nat)) : (s.completePack (.ok bs)).freeCtr = s.freeCtr := rfl
@[simp] theorem State.completePack_error_freeCtr (f : Failure) : (s.completePack (.error f)).freeCtr = s.freeCtr := rfl

/-! ### Results and the script -/

@[simp] theorem Results.kept_ok (r : Results) : r.kept .ok = r := rfl

/-- A failure keeps no result (R236). -/
theorem Results.kept_of_ne_ok (r : Results) {err : ErrKind} (h : err ≠ .ok) : r.kept err = {} := by
  cases err <;> first | exact absurd rfl h | rfl

@[simp] theorem State.withInputs_self : s.withInputs s.inputs = s := rfl

@[simp] theorem State.withInputs_withInputs (l l' : List Input) :
    (s.withInputs l).withInputs l' = s.withInputs l' := rfl

@[simp] theorem State.completeWith_ok (v : Nat) :
    s.completeWith (.ok v) = s.complete .ok .none { v0 := v } := rfl

@[simp] theorem State.completeWith_error (f : Failure) :
    s.completeWith (.error f) = s.complete f.err f.sub {} := rfl

end Sys2Proof.Machine
end

