-- ==== Sys2Proof/Laws/Steps.lean ====
section
/-! SUPPORT. Everything a step can do, said once: what a read, a write, a command and a step answer. -/

namespace Sys2Proof.Machine

/-- `BLKCNT` has 16 bits, whatever it shows (U21). -/
theorem unspecifiedData_blkcnt_lt (w : Word) : (unspecifiedData .blkcnt w).toNat < 2 ^ 16 := by
  simp only [unspecifiedData, BitVec.toNat_and]
  exact Nat.lt_of_le_of_lt Nat.and_le_right (by decide)

/-- The data a location has is what a read of it returns. -/
theorem busRead_of_readLoc {off : BitVec 13} {s : State} {l : Loc} {w : Word}
    (hl : accessLoc s.params off = some l) (hw : readLoc l s = some w) :
    busRead off s = s.reply (.read .okay w) := by
  simp only [busRead, hl, hw]

/-- Where a location's data is unspecified, a read answers a free value. -/
theorem busRead_of_unspecified {off : BitVec 13} {s : State} {l : Loc}
    (hl : accessLoc s.params off = some l) (hw : readLoc l s = none) :
    busRead off s = s.replyFree l := by
  simp only [busRead, hl, hw]

/-- A read replies, and changes nothing else but the counter of free values. -/
theorem busRead_cases (off : BitVec 13) (s : State) :
    (∃ r, busRead off s = s.reply r) ∨
    ∃ l, accessLoc s.params off = some l ∧ readLoc l s = none ∧ busRead off s = s.replyFree l := by
  unfold busRead
  split
  next => exact .inl ⟨_, rfl⟩
  next l hl =>
    split
    next => exact .inl ⟨_, rfl⟩
    next hw => exact .inr ⟨l, hl, hw, rfl⟩

/-- A write replies `ERROR` and changes nothing, or it is a full-word write to a mapped location. -/
theorem busWrite_cases (off : BitVec 13) (strobes : BitVec 4) (v : Word) (s : State) :
    busWrite off strobes v s = s.reply (.write .error) ∨
    ∃ l, accessLoc s.params off = some l ∧ strobes = 0xF ∧
      busWrite off strobes v s = (writeLoc l v s).reply (.write .okay) := by
  unfold busWrite
  split
  next => exact .inl rfl
  next l hl =>
    split
    next hs => exact .inr ⟨l, hl, hs, rfl⟩
    next => exact .inl rfl

/-- Everything a full-word write can do (R66, R69, R72). -/
theorem writeLoc_cases (l : Loc) (v : Word) (s : State) :
    (l.heldWhileBusy = true ∧ s.status.busy = true ∧ writeLoc l v s = s.overrun) ∨
    (l = .cmd ∧ s.status.busy = false ∧ writeLoc l v s = s.accept v) ∨
    (l = .status ∧ writeLoc l v s = { s with status := s.status.writeClear v }) ∨
    (l = .ctrl ∧ v.getLsbD 1 = true ∧ writeLoc l v s = s.softReset) ∨
    (l = .ctrl ∧ v.getLsbD 1 = false ∧ writeLoc l v s = { s with ie := v.getLsbD 0 }) ∨
    (l = .blksel ∧ writeLoc l v s = { s with blksel := v.setWidth 16 }) ∨
    (∃ i, l = .opa i ∧ s.status.busy = false ∧
      writeLoc l v s = { s with opa := putSlotWord s.opa i v }) ∨
    (∃ i, l = .opb i ∧ s.status.busy = false ∧
      writeLoc l v s = { s with opb := putSlotWord s.opb i v }) ∨
    (∃ i, l = .opc i ∧ s.status.busy = false ∧
      writeLoc l v s = { s with opc := putSlotWord s.opc i v }) ∨
    (∃ t, l = .dig t ∧ s.status.busy = false ∧
      writeLoc l v s = { s with dig := s.dig.writeWord t v }) ∨
    (l.readOnly = true ∧ writeLoc l v s = s) := by
  cases hb : s.status.busy <;> cases hv : v.getLsbD 1 <;> cases l <;>
    simp only [writeLoc, State.unlessBusy, writeCtrl, hb, hv, Loc.heldWhileBusy, Loc.readOnly] <;>
    simp

/-- Everything a command can do: complete with results or a failure (R236), complete as PACK (R187) or
MRPRIME (R167) does, or, an MRPRIME, take the words there are and wait (R276). -/
theorem exec_cases {i : Instr} {s t : State} (h : exec i s = .next t) :
    (∃ sa sb, i = .xgcd sa sb ∧
      t = s.complete .ok .none (xgcdResults (s.operandA sa) (s.operandB sb))) ∨
    (∃ sa sc, i = .modinv sa sc ∧
      t = s.completeWith (modinv (s.operandA sa) (s.operandC sc))) ∨
    (∃ sa sb sc, i = .modexp sa sb sc ∧
      t = s.completeWith (modexp (s.operandA sa) (s.operandB sb) (s.operandC sc))) ∨
    (∃ sa rounds v k, i = .mrprime sa rounds ∧
      mrprime (s.operandA sa) (rounds - s.mrDrawn) s.rng = ⟨some v, k⟩ ∧ t = s.mrComplete v k) ∨
    (∃ sa rounds k, i = .mrprime sa rounds ∧
      mrprime (s.operandA sa) (rounds - s.mrDrawn) s.rng = ⟨none, k⟩ ∧ t = s.mrWait k) ∨
    (∃ sc ngrp, i = .pack sc ngrp ∧
      t = s.completePack
        (packGroups s.params.lmax ngrp (s.packInput ngrp) (s.operandC sc))) := by
  cases i with
  | xgcd sa sb => cases h; exact .inl ⟨sa, sb, rfl, rfl⟩
  | modinv sa sc => cases h; exact .inr (.inl ⟨sa, sc, rfl, rfl⟩)
  | modexp sa sb sc => cases h; exact .inr (.inr (.inl ⟨sa, sb, sc, rfl, rfl⟩))
  | mrprime sa rounds =>
    simp only [exec, execMrprime] at h
    split at h
    next v k hk => cases h; exact .inr (.inr (.inr (.inl ⟨sa, rounds, v, k, rfl, hk, rfl⟩)))
    next k hk => cases h; exact .inr (.inr (.inr (.inr (.inl ⟨sa, rounds, k, rfl, hk, rfl⟩))))
  | pack sc ngrp => cases h; exact .inr (.inr (.inr (.inr (.inr ⟨sc, ngrp, rfl, rfl⟩))))

/-- Everything the engine's step can do (R42, R237). -/
theorem engineStep_cases {s t : State} (h : engineStep s = .next t) :
    t = s ∨
    (s.rstN = true ∧ s.status.busy = true ∧ ∃ i, decode s.cmd = .instr i ∧ exec i s = .next t) ∨
    (s.rstN = true ∧ s.status.busy = true ∧ ∃ why, decode s.cmd = .illegal why ∧
      t = s.completeIllegal) := by
  unfold engineStep at h
  split at h
  next hb =>
    simp only [Bool.and_eq_true] at hb
    split at h
    next i hi => exact .inr (.inl ⟨hb.1, hb.2, i, hi, h⟩)
    next why hw => cases h; exact .inr (.inr ⟨hb.1, hb.2, why, hw, rfl⟩)
  next => cases h; exact .inl rfl

/-- The engine has the turn and the script that remains is `l`: there is no move left, the engine's is
next, or the host waits. -/
def State.engineTurn (s : State) (l : List Input) : Prop :=
  (s.inputs = [] ∧ l = []) ∨ s.inputs = .engine :: l ∨ (s.inputs = l ∧ ∃ r, l = .wait :: r) ∨
    (s.inputs = l ∧ ∃ r, l = .waitIrq :: r)

/-- The engine's turn is no write. -/
theorem State.engineTurn.not_nextWrites {s : State} {l : List Input} (h : s.engineTurn l)
    (loc : Loc) (v : Word) : ¬ s.nextWrites loc v := by
  rintro ⟨off, rest, hw, -⟩
  rcases h with ⟨h, -⟩ | h | ⟨h, r, rfl⟩ | ⟨h, r, rfl⟩ <;> simp [h] at hw

/-- The engine's turn is no reset. -/
theorem State.engineTurn.not_nextResets {s : State} {l : List Input} (h : s.engineTurn l) :
    ¬ s.nextResets := by
  rintro (⟨v, hw, -⟩ | ⟨rest, hr⟩)
  · exact h.not_nextWrites _ _ hw
  · rcases h with ⟨h, -⟩ | h | ⟨h, r, rfl⟩ | ⟨h, r, rfl⟩ <;> simp [h] at hr

/-- Everything a step can do: the engine's turn, an access by the host, a word offered, or a move of
`rst_n`; the script moves on, or stays while the host waits. -/
theorem step_cases {s t : State} (h : step s = .next t) :
    (∃ l, s.engineTurn l ∧ engineStep (s.withInputs l) = .next t) ∨
    (∃ off l, s.rstN = true ∧
      (s.inputs = .read off :: l ∨ (off = 0x004 ∧ s.inputs = .wait :: l)) ∧
      t = busRead off (s.withInputs l)) ∨
    (∃ off strobes v l, s.rstN = true ∧ s.inputs = .write off strobes v :: l ∧
      t = busWrite off strobes v (s.withInputs l)) ∨
    (∃ w l, s.inputs = .rngOffer w :: l ∧ t = (s.withInputs l).offer w) ∨
    (∃ l, s.inputs = .rstAssert :: l ∧ t = (s.withInputs l).hardReset) ∨
    (∃ l, s.inputs = .rstRelease :: l ∧ t = (s.withInputs l).releaseReset) ∨
    (∃ l, s.inputs = .waitIrq :: l ∧ s.irq = true ∧ t = s.withInputs l) := by
  unfold step at h
  split at h
  next hi =>
    refine .inl ⟨[], .inl ⟨hi, rfl⟩, ?_⟩
    have : s.withInputs [] = s := by rw [← hi]; rfl
    rwa [this]
  next e l hi =>
    cases e with
    | engine => exact .inl ⟨l, .inr (.inl hi), h⟩
    | read off =>
      simp only [inputStep, hostStep] at h
      split at h
      next hr => cases h; exact .inr (.inl ⟨off, l, hr, .inl hi, rfl⟩)
      next => cases h
    | write off strobes v =>
      simp only [inputStep, hostStep] at h
      split at h
      next hr => cases h; exact .inr (.inr (.inl ⟨off, strobes, v, l, hr, hi, rfl⟩))
      next => cases h
    | rngOffer w => cases h; exact .inr (.inr (.inr (.inl ⟨w, l, hi, rfl⟩)))
    | rstAssert => cases h; exact .inr (.inr (.inr (.inr (.inl ⟨l, hi, rfl⟩))))
    | rstRelease => cases h; exact .inr (.inr (.inr (.inr (.inr (.inl ⟨l, hi, rfl⟩)))))
    | wait =>
      simp only [inputStep, waitStep] at h
      split at h
      next => exact .inl ⟨_, .inr (.inr (.inl ⟨hi, l, rfl⟩)), h⟩
      next =>
        simp only [hostStep] at h
        split at h
        next hr => cases h; exact .inr (.inl ⟨_, l, hr, .inr ⟨rfl, hi⟩, rfl⟩)
        next => cases h
    | waitIrq =>
      simp only [inputStep, waitIrqStep] at h
      split at h
      next hq => cases h; exact .inr (.inr (.inr (.inr (.inr (.inr ⟨l, hi, hq, rfl⟩)))))
      next => exact .inl ⟨_, .inr (.inr (.inr ⟨hi, l, rfl⟩)), h⟩

end Sys2Proof.Machine
end

