-- ==== Sys2Proof/Tests/Slice0.lean ====
section
/-! SUPPORT. Tests with expected values from spec/95_test_vectors.md and the corner tables of the family files, and one witness for the hypotheses of each statement of Certificates/Slice0/Obligations.lean. -/

namespace Sys2Proof.Tests

open Sys2Proof.Machine

set_option Elab.async false

/-! ### Helpers -/

/-- A block with these operands, right after reset otherwise. -/
def block (a b c : Nat) : State := { State.reset with opa := a, opb := b, opc := c }

/-- The same with digits and offered words. -/
def fed (s : State) (groups : List Byte) (words : List Nat) : State :=
  { s with
    dig := (groups.zipIdx.foldl (fun m g => m.writeByte g.2 g.1) [] : Memory)
    rng := words }

/-- The next state, or the reset state where there is none. -/
def nextOf (o : Host.Outcome State Fault Refusal) : State :=
  match o with
  | .next s => s
  | .fault _ => State.reset
  | .refused _ => State.reset

/-- One step that runs the command word `c`. -/
def ran (c : Nat) (s : State) : State := nextOf (step (s.withFetchWord 32 c))

/-- One step of the move `e`. -/
def moved (e : Input) (s : State) : State := nextOf (step (s.withInputs [e]))

/-- The block running the command word `c`. -/
def running (c : Word) (s : State) : State := s.accept c

/-- `RES0`, `RES1`, `RES2` and the `STATUS` word. -/
def outcome (s : State) : Nat × Nat × Nat × Nat :=
  (s.res0, s.res1, s.res2, s.status.toWord.toNat)

/-! ### Well-formedness: an ill-formed command for each check -/

theorem test_mrprime_rounds_too_large : (Instr.mrprime false 65536).wellFormed = false := by decide
theorem test_mrprime_rounds_largest : (Instr.mrprime false 65535).wellFormed = true := by decide
theorem test_pack_count_too_large : (Instr.pack true 65536).wellFormed = false := by decide
theorem test_pack_count_largest : (Instr.pack true 65535).wellFormed = true := by decide

/-! ### Decoding (words of R91's pattern, bit by bit, and of V6) -/

theorem test_decode_xgcd :
    decode 0b00000000000000000000001100000001#32 = .instr (.xgcd true true) := by decide
theorem test_decode_modinv :
    decode 0b00000000000000000000010000000010#32 = .instr (.modinv false true) := by decide
theorem test_decode_modexp :
    decode 0b00000000000000000000001000000011#32 = .instr (.modexp false true false) := by decide
theorem test_decode_mrprime :
    decode 0b11111111111111110000000100000100#32 = .instr (.mrprime true 65535) := by decide
theorem test_decode_pack :
    decode 0b00000001000000000000010000000101#32 = .instr (.pack true 256) := by decide
theorem test_decode_illegal_signs :
    decode 0x401 = .illegal .unusedSign ∧ decode 0x202 = .illegal .unusedSign ∧
    decode 0x204 = .illegal .unusedSign ∧ decode 0x404 = .illegal .unusedSign ∧
    decode 0x105 = .illegal .unusedSign ∧ decode 0x205 = .illegal .unusedSign := by decide
theorem test_decode_illegal_others :
    decode 0x0 = .illegal .unassignedOpcode ∧ decode 0x6 = .illegal .unassignedOpcode ∧
    decode 0xFF = .illegal .unassignedOpcode ∧ decode 0x10001 = .illegal .unusedImmediate ∧
    decode 0x10002 = .illegal .unusedImmediate ∧ decode 0x10003 = .illegal .unusedImmediate ∧
    decode 0x803 = .illegal .reservedBits ∧ decode 0x8003 = .illegal .reservedBits := by decide
theorem test_encode_examples :
    encode (.modexp false true false) = 0x203 ∧ encode (.mrprime false 5) = 0x50004 ∧
    encode (.pack false 5) = 0x50005 ∧ encode (.modinv true false) = 0x102 := by decide
theorem test_table_word : decodeTableWord 32 0x50005 = some (.pack false 5) ∧
    decodeTableWord 8 0x50005 = some (.pack false 0) ∧ decodeTableWord 32 0x9 = none := by decide

/-! ### The commands, one step each -/

/-- P5: 240 and -46. -/
theorem test_xgcd_second_negative : outcome (ran 0x201 (block 240 46 0)) = (2, 9, 47, 0x3002) := by
  decide +kernel
/-- R116: negative zero is zero. -/
theorem test_xgcd_negative_zero : outcome (ran 0x101 (block 0 5 0)) = (5, 0, 1, 0x2) := by
  decide +kernel
/-- V2: -3 modulo 26. -/
theorem test_modinv_negative : outcome (ran 0x102 (block 3 0 26)) = (17, 0, 0, 0x2) := by
  decide +kernel
/-- V2: the document's pair without an inverse. -/
theorem test_modinv_no_inverse : outcome (ran 0x002 (block 2 0 26)) = (0, 0, 0, 0x22) := by
  decide +kernel
/-- V3: exponent 0 gives 1 even modulo 1. -/
theorem test_modexp_zero_exponent : outcome (ran 0x003 (block 0 0 1)) = (1, 0, 0, 0x2) := by
  decide +kernel
/-- R150, with `W = 64`. -/
theorem test_modexp_wide :
    outcome (ran 0x003 (block 3 (2 ^ 64 - 1) (2 ^ 64 - 59))) = (17268082312041408519, 0, 0, 0x2) := by
  decide +kernel
/-- V4: 3233 with the word 558, a false positive. -/
theorem test_mrprime_liar :
    let t := ran 0x10004 (fed (block 3233 0 0) [] [558])
    outcome t = (1, 0, 0, 0x6) ∧ t.rngcnt = 1 := by
  decide +kernel
/-- V4: 25 with the words 0, 5: the early exit leaves the second word. -/
theorem test_mrprime_early_exit :
    let t := ran 0x20004 (fed (block 25 0 0) [] [0, 5])
    outcome t = (0, 0, 0, 0x2) ∧ t.rngcnt = 1 ∧ t.rng = [5] := by
  decide +kernel
/-- V5: "HELLO" under 704. -/
theorem test_pack_greedy :
    let t := ran 0x50005 (fed (block 0 0 704) [7, 4, 11, 11, 14] [])
    outcome t = (0, 0, 0, 0x2) ∧ t.nblk = 4 ∧ t.blk = [⟨7, 1⟩, ⟨411, 2⟩, ⟨11, 1⟩, ⟨14, 1⟩] := by
  decide +kernel
/-- V5: the digit guard before the group guard. -/
theorem test_pack_bad_digit :
    let t := ran 0x10005 (fed (block 0 0 30) [150] [])
    outcome t = (0, 0, 0, 0x512) ∧ t.nblk = 0 := by
  decide +kernel
/-- R95: an illegal word. -/
theorem test_illegal_word : outcome (ran 0x401 (block 1 2 3)) = (0, 0, 0, 0x32) := by decide +kernel

/-! ### The window, one access each (V7) -/

theorem test_read_version_and_param :
    (moved (.read 0x020) State.reset).bus = .read .okay 0x00010000 ∧
    (moved (.read 0x01C) State.reset).bus = .read .okay 0x01000002 := by decide +kernel
theorem test_read_errors :
    (moved (.read 0x002) State.reset).bus = .read .error 0 ∧
    (moved (.read 0x208) State.reset).bus = .read .error 0 ∧
    (moved (.read 0x1100) State.reset).bus = .read .error 0 ∧
    (moved (.read 0x1FFC) State.reset).bus = .read .error 0 := by decide +kernel
theorem test_write_digits :
    let t := moved (.write 0x1000 0xF 0x0B0B0407) State.reset
    t.dig = [(0, 7), (1, 4), (2, 11), (3, 11)] ∧ (moved (.read 0x1000) t).bus = .read .okay 0x0B0B0407 := by
  decide +kernel
theorem test_write_blksel : (moved (.write 0x010 0xF 0xABCD1234) State.reset).blksel = 0x1234 := by
  decide +kernel
theorem test_partial_write :
    moved (.write 0x200 0x3 1) State.reset = State.reset.reply (.write .error) := by decide +kernel
/-- P4: a write of `OPA` while busy. -/
theorem test_busy_write_dropped :
    let t := moved (.write 0x200 0xF 0x63) (running 0x10004 (block 61 0 0))
    t.opa = 61 ∧ t.status.toWord = 0x4001 := by decide +kernel

/-! ### The functions' own tables -/

/-- R151's trace of `4^13 mod 497`. -/
theorem test_modexp_trace :
    modexpTrace 497 13 1 4 13 = [(4, 16, 6), (4, 256, 3), (30, 429, 1), (445, 151, 0)] := by
  decide +kernel
/-- R117's count of steps does not matter; its result is R111's. -/
theorem test_xgcd_loop : xgcdIterative (-240) 46 = (2, 9, 47) := by decide +kernel
/-- R211's examples. -/
theorem test_unpack : unpack [(704, 2), (1111, 2), (14, 1)] = some [7, 4, 11, 11, 14] ∧
    unpack [(32, 3)] = some [0, 0, 32] ∧ unpack [(2549, 1)] = none := by decide +kernel
/-- R209's and R210's examples. -/
theorem test_text : encodeText ['H', 'i', ',', ' ', 'B', 'o', 'b', '!'] = [7, 8, 1, 14, 1] ∧
    decodeGroups [7, 99, 4] = ['H', 'E'] := by decide +kernel
/-- R101: `LDA 3233` and `LDDIG` of "HELLO". -/
theorem test_pseudo_instructions :
    lda Config.params 3233 = [.wr 0x200 0x00000CA1, .wr 0x204 0] ∧
    lddig [7, 4, 11, 11, 14] = [.wr 0x1000 0x0B0B0407, .wr 0x1004 0x0000000E] := by decide +kernel

/-- R16: a reset after the host's last access comes after the end of its run. -/
theorem test_run_ends_before_reset :
    let s := (block 240 46 0).withInputs [.write 0x000 0xF 0x201, .wait, .rstAssert]
    (s.endState 5).map outcome = some (2, 9, 47, 0x3002) := by decide +kernel

/-! ### Witnesses: a concrete case meeting the hypotheses of each statement -/

theorem witness_DecodeOfEncode : (Instr.mrprime true 65535).wellFormed = true := by decide

theorem witness_EncodeOfDecode : decode 0xFFFF0104 = .instr (.mrprime true 65535) := by decide

theorem witness_DecodeAgreesWithOpcodeMap :
    decode 0x703 = .instr (.modexp true true true) ∧
    (⟨"PACK", 0x00000005, 0x0000FBFF⟩ : OpcodeRow) ∈ opcodeTable ∧
    (⟨"PACK", 0x00000005, 0x0000FBFF⟩ : OpcodeRow).admits 0x01000405 = true := by decide

theorem witness_StepRunsDecodedCommand :
    let s := running 3 (block 4 13 497)
    s.rstN = true ∧ s.status.busy = true ∧ decode s.cmd = .instr (.modexp false false false) ∧
    s.inputs = [] ∧ (s.withInputs [.engine]).inputs = [.engine] ∧
    (s.withInputs [.wait]).inputs = [.wait] ∧ (s.withInputs [.waitIrq]).irq = false := by decide

theorem witness_FetchWordRunsNext : decodeTableWord 32 3 = some (.modexp false false false) := by
  decide

theorem witness_IdleEngineHasNoStep :
    State.reset.status.busy = false ∧ State.reset.inputs = [] := by decide

theorem witness_IllegalWordCompletes :
    let s := running 0x401 State.reset
    s.rstN = true ∧ s.status.busy = true ∧ decode s.cmd = .illegal .unusedSign ∧ s.inputs = [] ∧
    (s.withInputs [.engine]).inputs = [.engine] ∧ (s.withInputs [.wait]).inputs = [.wait] ∧
    (s.withInputs [.waitIrq]).irq = false := by decide

theorem witness_EveryCommandCompletesOrWaits :
    (running 0x10004 (block 61 0 0)).status.busy = true := by decide

theorem witness_AcceptedCommandCompletes :
    let s := running 0x20004 (fed (block 61 0 0) [] [0, 1])
    s.rstN = true ∧ s.status.busy = true ∧ s.inputs = [] ∧
    decode s.cmd = .instr (.mrprime false 2) ∧ s.wordsSuffice (.mrprime false 2) = true := by decide

theorem witness_CommandThroughWindow :
    let s := (block 4 13 497).withInputs [.write 0x000 0xF 3, .wait]
    s.rstN = true ∧ s.status.busy = false ∧ decode 3 = .instr (.modexp false false false) := by decide

theorem witness_XgcdCompletes : xgcd (signedVal true 240) (signedVal false 46) = (2, 9, 47) := by
  decide +kernel

theorem witness_XgcdRecursion :
    (46 : Int) ≠ 0 ∧ xgcd 46 (-240 - Int.fdiv (-240) 46 * 46) = (2, -7, 9) := by decide +kernel

theorem witness_XgcdCoefficientBounds :
    (46 : Int) ≠ 0 ∧ (1 ≤ 8) ∧ (240 : Int).natAbs < 2 ^ 8 ∧ (46 : Int).natAbs < 2 ^ 8 := by decide

theorem witness_XgcdSigns :
    xgcd 240 46 = (2, -9, 47) ∧ (-5 : Int) ≠ 0 ∧ (-5 : Int) ∣ 0 := by decide +kernel

/-- The moduli 0, 1 and 26 are in the three clauses. -/
theorem witness_ModinvCompletes :
    signedVal false (block 2 0 0).opc ≤ 0 ∧ signedVal true (block 2 0 26).opc ≤ 0 ∧
    (0 < signedVal false (block 2 0 26).opc ∧ Int.gcd (signedVal false 2) (signedVal false 26) ≠ 1) ∧
    (0 < signedVal false (block 0 0 1).opc ∧ Int.gcd (signedVal false 0) (signedVal false 1) = 1) := by
  decide +kernel

theorem witness_ModinvResiduesAndInvolution :
    (1 : Int) ≤ 26 ∧ (2 : Int) ≤ 26 ∧ (modinv (-3) 26).toOption = some 17 := by decide +kernel

/-- The exponents -1, 0 and 1, and the moduli 0 and 1. -/
theorem witness_ModexpCompletes :
    signedVal true 0 ≤ 0 ∧ (0 < signedVal false 1 ∧ signedVal true 1 < 0) ∧
    (0 < signedVal false 1 ∧ signedVal true 0 = 0) ∧
    (0 < signedVal false 1 ∧ 0 < signedVal false 1) := by decide

theorem witness_ModexpIntermediatesBounded : 1 ≤ 497 ∧ 497 < 2 ^ 9 := by decide

theorem witness_MrprimeCompletes :
    let s := fed (block 25 0 0) [] [5, 0]
    s.mrDrawn = 0 ∧
    mrprimeStream (signedVal false s.opa) 2 (fun j => if j = 0 then 5 else 0) s.rpos = (false, 2) ∧
    s.rng[0]? = some 5 ∧ s.rng[1]? = some 0 := by decide +kernel

theorem witness_MrprimeWaitsForWords :
    let s := fed (block 61 0 0) [] [0, 1]
    s.mrDrawn = 0 ∧ mrDeterministic (signedVal false s.opa) = none ∧
    (∀ w ∈ s.rng, wordPasses (signedVal false s.opa).toNat w = true) ∧ s.rng.length < 3 := by
  decide +kernel

theorem witness_MrprimeResumes :
    let s := running 0x30004 (fed (block 61 0 0) [] [0, 1])
    s.status.busy = true ∧ ∃ t, exec (.mrprime false 3) s = .next t ∧ t.status.busy = true :=
  ⟨by decide, _, rfl, by decide +kernel⟩

theorem witness_MrDecompositionUnique :
    5 ≤ 3233 ∧ 3233 % 2 = 1 ∧ 101 % 2 = 1 ∧ 3233 - 1 = 2 ^ 5 * 101 := by decide

theorem witness_MrBaseRange : 5 ≤ 5 ∧ 2 ≤ 3 ∧ 3 ≤ 5 - 2 := by decide

theorem witness_MrRoundClosedForm : 5 ≤ 7 ∧ 1 ≤ 1 ∧ 1 ≤ 3 ∧ roundPasses 7 1 3 5 = true := by
  decide +kernel

/-- The numbers 4, 5, 2 and 9. -/
theorem witness_MrDraws :
    mrprimeStream 4 5 (fun _ => 0) 0 = (false, 0) ∧ mrprimeStream 2 5 (fun _ => 0) 0 = (true, 0) ∧
    mrprimeStream 5 1 (fun _ => 0) 0 = (true, 1) ∧ mrprimeStream 9 0 (fun _ => 0) 0 = (true, 0) ∧
    mrprimeStream 9 1 (fun _ => 0) 0 = (false, 1) := by decide +kernel

theorem witness_PrimesAreNeverCalledComposite :
    let s := running 0x10004 (fed (block 9 0 0) [] [0])
    s.status.busy = true ∧
    ∃ t, exec (.mrprime false 1) s = .next t ∧ t.status.busy = false ∧ t.status.prime = false :=
  ⟨by decide, _, rfl, by decide +kernel, by decide +kernel⟩

theorem witness_WordsTakenOnlyWhenReady :
    (∃ t, engineStep (running 0x10004 (fed (block 9 0 0) [] [0])) = .next t ∧ t.rpos = 1) ∧
    (running 0x00004 (block 9 0 0)).rngReady = false :=
  ⟨⟨_, rfl, by decide +kernel⟩, by decide +kernel⟩

/-- The moduli 25 and 26, the counts `LMAX` and `LMAX + 1`, the digits 99 and 100, the groups 25
and 26 under 26. -/
theorem witness_PackCompletes :
    signedVal false 25 ≤ 25 ∧
    (25 < signedVal false 26 ∧ State.reset.params.lmax < 257) ∧
    (25 < signedVal false 26 ∧ 1 ≤ State.reset.params.lmax ∧ ∃ g ∈ [100], 99 < g) ∧
    (25 < signedVal false 26 ∧ (∀ g ∈ [26], g ≤ 99) ∧ ∃ g ∈ [26], signedVal false 26 ≤ ((g : Nat) : Int)) ∧
    (25 < signedVal false 26 ∧ 256 ≤ State.reset.params.lmax ∧
      ∀ g ∈ [25, 0], g ≤ 99 ∧ ((g : Nat) : Int) < signedVal false 26) := by decide

/-- For PackBlockInvariants, UnpackOfPack, PackIsGreedy and PackCounts: V5's "HELLO" under 704. -/
theorem witness_PackSucceeds :
    let s := fed (block 0 0 704) [7, 4, 11, 11, 14] []
    s.params.Legal ∧ ∃ t, exec (.pack false 5) s = .next t ∧ t.status.err = .ok ∧
      t.blk[0]? = some ⟨7, 1⟩ ∧ t.blk[1]? = some ⟨411, 2⟩ :=
  ⟨by decide, _, rfl, by decide +kernel, by decide +kernel, by decide +kernel⟩

theorem witness_CommandFrame :
    (∃ t, exec (.pack false 0) (block 0 0 26) = .next t) ∧
    (∀ sc ngrp, Instr.xgcd true false ≠ .pack sc ngrp) :=
  ⟨⟨_, rfl⟩, fun _ _ h => nomatch h⟩

theorem witness_CommandDependsOnlyOnItsReads :
    let s := running 1 (block 17 3120 5)
    let s' := { running 1 (block 17 3120 9) with ie := true, res0 := 4 }
    s.status.busy = true ∧ s'.status.busy = true ∧ readsAgree (.xgcd false false) s s' ∧
    (∃ t, exec (.xgcd false false) s = .next t ∧ t.status.busy = false) ∧
    ∃ t', exec (.xgcd false false) s' = .next t' :=
  ⟨by decide, by decide, ⟨rfl, rfl⟩, ⟨_, rfl, by decide +kernel⟩, ⟨_, rfl⟩⟩

theorem witness_OperandsChangeOnlyByIdleWrites :
    (∃ t, step (State.reset.withInputs [.write 0x200 0xF 7]) = .next t ∧ t.opa ≠ 0) ∧
    (∃ t, step (State.reset.withInputs [.write 0x404 0xF 7]) = .next t ∧ t.opb ≠ 0) ∧
    (∃ t, step (State.reset.withInputs [.write 0x604 0xF 7]) = .next t ∧ t.opc ≠ 0) ∧
    (∃ t, step (State.reset.withInputs [.write 0x10FC 0xF 7]) = .next t ∧ t.dig ≠ []) :=
  ⟨⟨_, rfl, by decide +kernel⟩, ⟨_, rfl, by decide +kernel⟩, ⟨_, rfl, by decide +kernel⟩,
    ⟨_, rfl, by decide +kernel⟩⟩

theorem witness_BusyChangesOnly :
    (∃ t, step (State.reset.withInputs [.write 0x000 0xF 1]) = .next t ∧ t.status.busy = true) ∧
    (∃ t, step (running 1 State.reset) = .next t ∧ t.status.busy = false) :=
  ⟨⟨_, rfl, by decide +kernel⟩, ⟨_, rfl, by decide +kernel⟩⟩

theorem witness_OverrunIsSticky :
    let s := running 1 State.reset
    (∃ t, step (s.withInputs [.write 0x000 0xF 1]) = .next t ∧ t.status.ovr = true) ∧
    (∃ t, step (s.overrun.withInputs [.write 0x004 0xF 0x4000]) = .next t ∧ t.status.ovr = false) :=
  ⟨⟨_, rfl, by decide +kernel⟩, ⟨_, rfl, by decide +kernel⟩⟩

theorem witness_BlocksChangeOnlyByPack :
    ∃ t, step (running 0x10005 (block 0 0 26)) = .next t ∧ t.nblk ≠ 0 :=
  ⟨_, rfl, by decide +kernel⟩

theorem witness_StreamOnlyAdvances :
    ∃ t, step (State.reset.withInputs [.rngOffer 7]) = .next t ∧ t.rng = [7] :=
  ⟨_, rfl, by decide +kernel⟩

/-- The last words of a slot and of the digits are mapped, the next are not. -/
theorem witness_WindowMap :
    Config.params.Legal ∧ accessLoc Config.params 0x204 = some (.opa 1) ∧
    accessLoc Config.params 0x208 = none ∧ accessLoc Config.params 0x10FC = some (.dig 63) ∧
    accessLoc Config.params 0x1100 = none ∧ accessLoc Config.params 0x020 = some .version ∧
    accessLoc Config.params 0x024 = none ∧ accessLoc Config.params 0xE04 = some (.blkval 1) := by
  decide +kernel

theorem witness_ErrorReplyChangesNothing :
    State.reset.rstN = true ∧ accessLoc State.reset.params 0x002 = none ∧ (0x3 : BitVec 4) ≠ 0xF := by
  decide +kernel

theorem witness_ReadOnlyWritesIgnored :
    accessLoc State.reset.params 0x800 = some (.res0 0) ∧ (Loc.res0 0).readOnly = true := by
  decide +kernel

theorem witness_ReadsChangeNothing :
    let s := State.reset.withInputs [.read 0x014]
    s.rstN = true ∧ s.inputs = [.read 0x014] ∧ accessLoc s.params 0x014 = some .blkcnt ∧
    s.nblk.toNat ≤ s.blksel.toNat := by decide

/-- A block read back: entry 1 of two, in a state with the invariant's table. -/
theorem witness_ReadData :
    let s := { block (2 ^ 32 * 5 + 6) 0 0 with nblk := 2, blk := [⟨7, 1⟩, ⟨411, 2⟩], blksel := 1 }
    s.rstN = true ∧ accessLoc s.params 0x014 = some .blkcnt ∧ s.packRunning = false ∧
    s.blksel.toNat < s.nblk.toNat ∧ s.blk[s.blksel.toNat]? = some ⟨411, 2⟩ ∧
    accessLoc s.params 0x204 = some (.opa 1) ∧ (5 : Word).toNat = s.opa / 2 ^ (32 * 1) % 2 ^ 32 ∧
    (moved (.read 0x014) s).bus = .read .okay 2 ∧ (moved (.read 0xE00) s).bus = .read .okay 411 := by
  decide +kernel

theorem witness_OperandWordWrite :
    let s := State.reset.withInputs [.write 0x204 0xF 5]
    s.params.Legal ∧ s.rstN = true ∧ s.status.busy = false ∧
    accessLoc s.params 0x204 = some (.opa 1) ∧ accessLoc s.params 0x404 = some (.opb 1) ∧
    accessLoc s.params 0x604 = some (.opc 1) := by decide +kernel

theorem witness_DigitWordWrite :
    let s := State.reset.withInputs [.write 0x10FC 0xF 5]
    s.dig.wf = true ∧ s.rstN = true ∧ s.status.busy = false ∧
    accessLoc s.params 0x10FC = some (.dig 63) := by decide +kernel

theorem witness_BusyWritesAreDropped :
    let s := running 1 State.reset
    s.rstN = true ∧ s.status.busy = true ∧ accessLoc s.params 0x10FC = some (.dig 63) ∧
    (Loc.dig 63).heldWhileBusy = true ∧ accessLoc s.params 0x000 = some .cmd := by decide +kernel

theorem witness_WritesThatActAlways :
    accessLoc State.reset.params 0x004 = some .status ∧
    accessLoc State.reset.params 0x008 = some .ctrl ∧ (1 : Word).getLsbD 1 = false ∧
    accessLoc State.reset.params 0x010 = some .blksel := by decide +kernel

theorem witness_AcceptanceOfCommandWord :
    let s := State.reset.withInputs [.write 0x000 0xF 9]
    s.rstN = true ∧ s.status.busy = false ∧ s.inputs = [.write 0x000 0xF 9] := by decide

theorem witness_InterruptLevel :
    let s := { running 1 State.reset with ie := true }
    let d := { State.reset with ie := true, status := { Status.reset with done := true } }
    (s.irq = false ∧ ∃ t, step s = .next t ∧ t.irq = true) ∧
    ({ d with ie := false }.irq = false ∧
      ∃ t, step ({ d with ie := false }.withInputs [.write 0x008 0xF 1]) = .next t ∧ t.irq = true) ∧
    (d.irq = true ∧ ∃ t, step (d.withInputs [.write 0x004 0xF 2]) = .next t ∧ t.irq = false) ∧
    (d.irq = true ∧ ∃ t, step (d.withInputs [.write 0x000 0xF 1]) = .next t ∧ t.irq = false) ∧
    (d.irq = true ∧ ∃ t, step (d.withInputs [.write 0x008 0xF 0]) = .next t ∧ t.irq = false) ∧
    (d.irq = true ∧ ∃ t, step (d.withInputs [.rstAssert]) = .next t ∧ t.irq = false) :=
  ⟨⟨by decide, _, rfl, by decide +kernel⟩, ⟨by decide, _, rfl, by decide +kernel⟩,
    ⟨by decide, _, rfl, by decide +kernel⟩, ⟨by decide, _, rfl, by decide +kernel⟩,
    ⟨by decide, _, rfl, by decide +kernel⟩, ⟨by decide, _, rfl, by decide +kernel⟩⟩

theorem witness_SoftReset :
    let s := (running 0x10004 (block 61 0 0)).withInputs [.write 0x008 0xF 3]
    s.rstN = true ∧ s.status.busy = true ∧ accessLoc s.params 0x008 = some .ctrl ∧
    (3 : Word).getLsbD 1 = true := by decide +kernel

theorem witness_HardReset :
    ((running 1 State.reset).withInputs [.rstAssert]).inputs = [.rstAssert] := by decide

/-- A block that runs XGCD on 240 and 46 has the invariant, and a step. -/
theorem witness_StepKeepsInv :
    (running 1 (block 240 46 0)).Inv ∧ ∃ t, step (running 1 (block 240 46 0)) = .next t :=
  ⟨{ params := by decide, opaFits := by decide, opbFits := by decide, opcFits := by decide
     res0Fits := by decide, res1Fits := by decide, res2Fits := by decide
     digWf := rfl, digBound := nofun
     blkLength := rfl, nblkBound := by decide, blkFits := nofun
     busyDone := by decide, busyFlags := fun _ => by decide, subCause := by decide
     failure := fun h => absurd rfl h, signX := nofun, signY := nofun, rngFits := nofun
     drawn := fun h => absurd rfl h, inReset := nofun }, _, rfl⟩

theorem witness_RsaRoundTrip :
    Nat.Prime 61 ∧ Nat.Prime 53 ∧ 61 ≠ 53 ∧ Nat.Coprime 17 ((61 - 1) * (53 - 1)) ∧ 25 < 61 * 53 ∧
    ['H', 'E', 'L', 'L', 'O'].length ≤ 256 ∧
    ∀ ch ∈ ['A', 'Z'], 65 ≤ ch.toNat ∧ ch.toNat ≤ 90 := by
  refine ⟨by norm_num, by norm_num, by decide, by decide, by decide, by decide, ?_⟩
  intro ch h
  simp only [List.mem_cons, List.not_mem_nil, or_false] at h
  rcases h with rfl | rfl <;> simp

end Sys2Proof.Tests
end

section
/-! PROOFS. The family of spec/00_scope.md: the invariant of the machine's states (R5, R10, R22 to R31), the completion of an accepted command (R15), the reads its outcome depends on (R14), and the engine's turn (R13). -/

namespace Sys2Proof.Machine

/-! ### XGCD (spec/40_xgcd.md R111 to R114) -/

@[simp] theorem xgcd_zero (a : Int) : xgcd a 0 = (a.natAbs, a.sign, 0) := rfl

/-- R111's recursion, without the fuel. -/
theorem xgcd_of_ne_zero (a : Int) {b : Int} (hb : b ≠ 0) :
    xgcd a b =
      ((xgcd b (a - a.fdiv b * b)).1, (xgcd b (a - a.fdiv b * b)).2.2,
        (xgcd b (a - a.fdiv b * b)).2.1 - a.fdiv b * (xgcd b (a - a.fdiv b * b)).2.2) := by
  obtain ⟨f, hf⟩ : ∃ f, b.natAbs = f + 1 := ⟨b.natAbs - 1, by omega⟩
  have hlt := natAbs_sub_fdiv_mul_lt a hb
  rw [xgcd, hf, xgcdFuel, if_neg hb, xgcdFuel_eq f b _ (by omega)]

/-- Induction along R111's recursion. -/
theorem xgcd_induction {P : Int → Int → Prop} (base : ∀ a, P a 0)
    (step : ∀ a b, b ≠ 0 → P b (a - a.fdiv b * b) → P a b) (a b : Int) : P a b := by
  induction hn : b.natAbs using Nat.strong_induction_on generalizing a b with
  | _ n ih =>
    by_cases hb : b = 0
    · exact hb ▸ base a
    · exact step a b hb (ih _ (hn ▸ natAbs_sub_fdiv_mul_lt a hb) b _ rfl)

/-- R113 (a): the first component is the gcd. -/
theorem xgcd_fst_eq_gcd (a b : Int) : (xgcd a b).1 = Int.gcd a b := by
  induction a, b using xgcd_induction with
  | base a => simp
  | step a b hb ih =>
    rw [xgcd_of_ne_zero a hb, ih, Int.gcd_sub_mul_right_right, Int.gcd_comm]

/-- R113 (b): the Bezout identity. -/
theorem xgcd_bezout (a b : Int) :
    a * (xgcd a b).2.1 + b * (xgcd a b).2.2 = Int.gcd a b := by
  rw [← xgcd_fst_eq_gcd]
  induction a, b using xgcd_induction with
  | base a => simp
  | step a b hb ih =>
    rw [xgcd_of_ne_zero a hb]
    linear_combination ih

/-- In a Bezout identity a first coefficient below `|b|` bounds the second one by `|a|`. -/
theorem natAbs_le_of_bezout {a b x y : Int} (h : a * x + b * y = 1) (ha : a ≠ 0)
    (hx : x.natAbs < b.natAbs) : y.natAbs ≤ a.natAbs := by
  have hby : b * y = 1 - a * x := by omega
  have ha1 : 1 ≤ a.natAbs := Int.natAbs_pos.2 ha
  refine Nat.le_of_mul_le_mul_left (c := b.natAbs) ?_ (by omega)
  calc b.natAbs * y.natAbs
      ≤ 1 + a.natAbs * x.natAbs := by
        simpa [← Int.natAbs_mul, hby] using Int.natAbs_sub_le 1 (a * x)
    _ ≤ a.natAbs * (x.natAbs + 1) := by rw [Nat.mul_add_one]; omega
    _ ≤ a.natAbs * b.natAbs := Nat.mul_le_mul_left _ hx
    _ = b.natAbs * a.natAbs := Nat.mul_comm _ _

/-- In a Bezout identity whose first number is no unit, the second coefficient is not of that
number's magnitude. -/
theorem natAbs_ne_of_bezout {b r x y : Int} (h : b * x + r * y = 1) (hb : b.natAbs ≠ 1) :
    y.natAbs ≠ b.natAbs := by
  intro hy
  have hdvd : b ∣ y := Int.natAbs_dvd_natAbs.1 (Dvd.intro_left 1 (by omega))
  exact hb (Int.isUnit_iff_natAbs_eq.1
    (isUnit_of_dvd_one (h ▸ dvd_add (Dvd.intro _ rfl) (hdvd.mul_left r))))

/-- R115: when `b` divides `a` the recursion ends after one step. -/
theorem xgcd_of_dvd {a b : Int} (hb : b ≠ 0) (h : b ∣ a) : xgcd a b = (b.natAbs, 0, b.sign) := by
  rw [xgcd_of_ne_zero a hb, Int.fdiv_mul_cancel h]
  simp

/-- The step of R114's bound: when `b` does not divide `a`, the bound on the first coefficient of a
Bezout identity gives the one on the second. -/
theorem natAbs_le_div_gcd_of_bezout {a b x y : Int} (hb : b ≠ 0) (hdvd : ¬ b ∣ a)
    (hbez : a * x + b * y = Int.gcd a b) (hx : x.natAbs ≤ max 1 (b.natAbs / Int.gcd a b)) :
    y.natAbs ≤ a.natAbs / Int.gcd a b := by
  have hg : 0 < Int.gcd a b := Int.gcd_pos_of_ne_zero_right a hb
  obtain ⟨a', ha'⟩ := Int.gcd_dvd_left a b
  obtain ⟨b', hb'⟩ := Int.gcd_dvd_right a b
  generalize Int.gcd a b = g at *
  subst ha' hb'
  have hg0 : (g : Int) ≠ 0 := by omega
  have hred : a' * x + b' * y = 1 := mul_left_cancel₀ hg0 (by linear_combination hbez)
  have hb'0 : b' ≠ 0 := right_ne_zero_of_mul hb
  have hb'1 : b'.natAbs ≠ 1 := fun h1 =>
    hdvd (mul_dvd_mul_left _ (Int.isUnit_iff_natAbs_eq.2 h1).dvd)
  have ha'0 : a' ≠ 0 := fun h0 => hdvd (by simp [h0])
  simp only [Int.natAbs_mul, Int.natAbs_natCast, Nat.mul_div_cancel_left _ hg] at hx ⊢
  have hne := natAbs_ne_of_bezout (by linear_combination hred : b' * y + a' * x = 1) hb'1
  exact natAbs_le_of_bezout hred ha'0 (by omega)

/-- R114's sharp bound on the second coefficient. -/
theorem xgcd_coeffB_natAbs_le (a b : Int) :
    (xgcd a b).2.2.natAbs ≤ max 1 (a.natAbs / Int.gcd a b) := by
  induction a, b using xgcd_induction with
  | base a => simp
  | step a b hb ih =>
    by_cases hdvd : b ∣ a
    · rw [xgcd_of_dvd hb hdvd, Int.natAbs_sign_of_ne_zero hb]
      exact le_max_left _ _
    · refine le_max_of_le_right (natAbs_le_div_gcd_of_bezout hb hdvd (xgcd_bezout a b) ?_)
      rwa [xgcd_of_ne_zero a hb, Int.gcd_comm, ← Int.gcd_sub_mul_right_right]

/-- R114's sharp bound on the first coefficient. -/
theorem xgcd_coeffA_natAbs_le (a : Int) {b : Int} (hb : b ≠ 0) :
    (xgcd a b).2.1.natAbs ≤ max 1 (b.natAbs / Int.gcd a b) := by
  have h := xgcd_coeffB_natAbs_le b (a - a.fdiv b * b)
  rw [Int.gcd_sub_mul_right_right, Int.gcd_comm] at h
  rwa [xgcd_of_ne_zero a hb]

/-- Both coefficients are at most 1 or the other operand (R114, loose form). -/
theorem xgcd_coeffs_natAbs_le (a b : Int) :
    (xgcd a b).2.1.natAbs ≤ max 1 b.natAbs ∧ (xgcd a b).2.2.natAbs ≤ max 1 a.natAbs := by
  constructor
  · by_cases hb : b = 0
    · subst hb
      rcases eq_or_ne a 0 with rfl | ha
      · simp
      · simp [Int.natAbs_sign_of_ne_zero ha]
    · exact (xgcd_coeffA_natAbs_le a hb).trans (max_le_max_left _ (Nat.div_le_self _ _))
  · exact (xgcd_coeffB_natAbs_le a b).trans (max_le_max_left _ (Nat.div_le_self _ _))

/-- R114: the coefficients of operands of `w` bits fit in `w` bits, for `w ≥ 1`. -/
theorem xgcd_coeffs_lt_two_pow {a b : Int} {w : Nat} (hw : 1 ≤ w) (ha : a.natAbs < 2 ^ w)
    (hb : b.natAbs < 2 ^ w) :
    (xgcd a b).2.1.natAbs < 2 ^ w ∧ (xgcd a b).2.2.natAbs < 2 ^ w := by
  have h1 : 1 < 2 ^ w := Nat.one_lt_two_pow (by omega)
  obtain ⟨hx, hy⟩ := xgcd_coeffs_natAbs_le a b
  exact ⟨hx.trans_lt (max_lt h1 hb), hy.trans_lt (max_lt h1 ha)⟩

/-- The gcd of operands of `w` bits fits in `w` bits. -/
theorem xgcd_fst_lt_two_pow {a b : Int} {w : Nat} (ha : a.natAbs < 2 ^ w)
    (hb : b.natAbs < 2 ^ w) : (xgcd a b).1 < 2 ^ w := by
  rw [xgcd_fst_eq_gcd]
  rcases Nat.eq_zero_or_pos b.natAbs with h0 | h0
  · rw [Int.natAbs_eq_zero.1 h0, Int.gcd_zero_right]
    exact ha
  · exact (Nat.gcd_le_right _ h0).trans_lt hb

/-! ### What a command's function gives: results that fit, or a failure with its own codes -/

@[simp] theorem natAbs_signedVal (sign : Bool) (mag : Nat) : (signedVal sign mag).natAbs = mag := by
  cases sign <;> simp [signedVal]

theorem signedVal_le (sign : Bool) (mag : Nat) : signedVal sign mag ≤ mag := by
  cases sign <;> simp [signedVal]

/-- Results that a completion may write: magnitudes of `w` bits (R23), and no negative zero (R10). -/
structure Results.Fit (w : Nat) (r : Results) : Prop where
  v0 : r.v0 < 2 ^ w
  v1 : r.v1 < 2 ^ w
  v2 : r.v2 < 2 ^ w
  sx : r.sx = true → r.v1 ≠ 0
  sy : r.sy = true → r.v2 ≠ 0

/-- A single value that fits in `RES0`, beside any `PRIME`. -/
theorem Results.fit_of_lt {w v : Nat} (h : v < 2 ^ w) (p : Bool) :
    Results.Fit w { v0 := v, prime := p } :=
  ⟨h, Nat.two_pow_pos w, Nat.two_pow_pos w, nofun, nofun⟩

/-- What survives a completion fits, if what the command assigned does. -/
theorem Results.Fit.kept {w : Nat} {r : Results} (h : r.Fit w) (err : ErrKind) :
    (r.kept err).Fit w := by
  by_cases he : err = .ok
  · exact he ▸ h
  · rw [Results.kept_of_ne_ok r he]
    exact Results.fit_of_lt (Nat.two_pow_pos w) false

/-- A failure's codes: an error, and a sub-cause exactly with `INVALID_ARGUMENT` (R231, R232). -/
def Failure.Coded (f : Failure) : Prop :=
  f.err ≠ .ok ∧ (f.sub = .none ↔ f.err ≠ .invalidArgument)

theorem Failure.invalid_coded {sub : SubCause} (h : sub ≠ .none) : (Failure.invalid sub).Coded :=
  ⟨nofun, iff_of_false h (absurd rfl)⟩

theorem Failure.noInverse_coded : Failure.noInverse.Coded :=
  ⟨nofun, iff_of_true rfl nofun⟩

/-- R114, R116: what XGCD assigns fits its registers. -/
theorem xgcdResults_fit {a b : Int} {w : Nat} (hw : 1 ≤ w) (ha : a.natAbs < 2 ^ w)
    (hb : b.natAbs < 2 ^ w) : (xgcdResults a b).Fit w where
  v0 := xgcd_fst_lt_two_pow ha hb
  v1 := (xgcd_coeffs_lt_two_pow hw ha hb).1
  v2 := (xgcd_coeffs_lt_two_pow hw ha hb).2
  sx := fun h => Int.natAbs_ne_zero.2 (of_decide_eq_true h).ne
  sy := fun h => Int.natAbs_ne_zero.2 (of_decide_eq_true h).ne

/-- An inverse is below its modulus (R133). -/
theorem modinv_lt {a m : Int} {v : Nat} (h : modinv a m = .ok v) : (v : Int) < m := by
  unfold modinv at h
  split at h
  next => cases h
  next hm =>
    split at h
    next _ x _ _ =>
      split at h
      next =>
        cases h
        have hnonneg := Int.fmod_nonneg_of_pos x (b := m) (by omega)
        have hlt := Int.fmod_lt_of_pos x (b := m) (by omega)
        omega
      next => cases h

/-- The failures of MODINV (R131). -/
theorem modinv_error_coded {a m : Int} {f : Failure} (h : modinv a m = .error f) : f.Coded := by
  unfold modinv at h
  split at h
  next => cases h; exact Failure.invalid_coded nofun
  next =>
    split at h
    split at h
    next => cases h
    next => cases h; exact Failure.noInverse_coded

/-- R149: the loop's result stays below the modulus, or 1. -/
theorem modexpLoop_bound {m : Nat} (hm : 0 < m) (f : Nat) {res : Nat} (base e : Nat)
    (h : res ≤ 1 ∨ res < m) : modexpLoop m f res base e ≤ 1 ∨ modexpLoop m f res base e < m := by
  induction f generalizing res base e with
  | zero => exact h
  | succ f ih =>
    simp only [modexpLoop]
    split
    next => exact h
    next =>
      refine ih _ _ ?_
      split
      next => exact .inr (Nat.mod_lt _ hm)
      next => exact h

/-- A power is below the modulus, or it is 1 (R148: exponent 0 gives 1 whatever the modulus). -/
theorem modexp_bound {b e m : Int} {v : Nat} (h : modexp b e m = .ok v) :
    v ≤ 1 ∨ (v : Int) < m := by
  unfold modexp at h
  split at h
  next => cases h
  next hm =>
    split at h
    next => cases h
    next =>
      cases h
      have := modexpLoop_bound (m := m.toNat) (by omega) e.toNat
        ((b.fmod m).toNat % m.toNat) e.toNat (.inl le_rfl)
      unfold powMod
      omega

/-- The failures of MODEXP (R146). -/
theorem modexp_error_coded {b e m : Int} {f : Failure} (h : modexp b e m = .error f) :
    f.Coded := by
  unfold modexp at h
  split at h
  next => cases h; exact Failure.invalid_coded nofun
  next =>
    split at h
    next => cases h; exact Failure.invalid_coded nofun
    next => cases h

/-- MRPRIME draws at most one word a round (R171). -/
theorem mrprime_draws_le (n : Int) (rounds : Nat) (ws : List Nat) :
    (mrprime n rounds ws).draws ≤ rounds := by
  unfold mrprime
  split
  next => exact Nat.zero_le _
  next => exact (mrRounds_draws_le _ rounds ws).1

/-- With a word for every round, the rounds reach a verdict. -/
theorem mrRounds_verdict_isSome (n : Nat) {k : Nat} {ws : List Nat} (h : k ≤ ws.length) :
    (mrRounds n k ws).verdict.isSome = true := by
  induction k generalizing ws with
  | zero => rfl
  | succ k ih =>
    cases ws with
    | nil => simp at h
    | cons w ws =>
      simp only [mrRounds]
      split
      next => exact ih (Nat.le_of_succ_le_succ h)
      next => rfl

/-! ### PACK's scan (spec/44_pack.md R186, R194, R196) -/

/-- Groups that pass PACK's digit and group guards (R190, R192). -/
def GroupsBelow (m : Int) (gs : List Nat) : Prop := ∀ g ∈ gs, g ≤ 99 ∧ (g : Int) < m

/-- PACK's guards let through exactly the legal moduli, lengths and groups. -/
theorem packGuard_eq_none {lmax k : Nat} {groups : List Nat} {m : Int} :
    packGuard lmax k groups m = none ↔ 25 < m ∧ k ≤ lmax ∧ GroupsBelow m groups := by
  unfold packGuard GroupsBelow
  rw [forall₂_and]
  split_ifs <;> simp_all

/-- A guard names its sub-cause. -/
theorem packGuard_ne_some_none (lmax k : Nat) (groups : List Nat) (m : Int) :
    packGuard lmax k groups m ≠ some .none := by
  unfold packGuard
  split_ifs <;> nofun

/-- What the guards of a successful PACK have tested, and its blocks. -/
theorem packGroups_ok {lmax k : Nat} {groups : List Nat} {m : Int} {bs : List (Nat × Nat)}
    (h : packGroups lmax k groups m = .ok bs) :
    (25 < m ∧ k ≤ lmax ∧ GroupsBelow m groups) ∧ bs = packScan m 0 0 groups := by
  unfold packGroups at h
  split at h
  next => cases h
  next hg => cases h; exact ⟨packGuard_eq_none.1 hg, rfl⟩

/-- The failures of PACK (R186). -/
theorem packGroups_error_coded {lmax k : Nat} {groups : List Nat} {m : Int} {f : Failure}
    (h : packGroups lmax k groups m = .error f) : f.Coded := by
  unfold packGroups at h
  split at h
  next sub hg =>
    cases h
    exact Failure.invalid_coded fun hs => packGuard_ne_some_none _ _ _ _ (hs ▸ hg)
  next => cases h

/-- R196: the letter counts of a scan add up to the groups it took. -/
theorem packScan_sum (m : Int) (acc cnt : Nat) (gs : List Nat) :
    ((packScan m acc cnt gs).map Prod.snd).sum = cnt + gs.length := by
  induction gs generalizing acc cnt with
  | nil =>
    simp only [packScan]
    split
    next => simp
    next h => simp; omega
  | cons g gs ih =>
    simp only [packScan]
    split
    next => rw [ih, List.length_cons]; omega
    next => rw [List.map_cons, List.sum_cons, ih, List.length_cons]; omega

/-- R194 (a), (b): every block of a scan has a letter, and a value below the modulus of at most two
digits a letter, if the accumulator is so. -/
theorem packScan_mem {m : Int} {gs : List Nat} (hgs : GroupsBelow m gs) {acc cnt : Nat}
    (hacc : (acc : Int) < m) (hcnt : acc < 100 ^ cnt) {b : Nat × Nat}
    (hb : b ∈ packScan m acc cnt gs) : (b.1 : Int) < m ∧ 1 ≤ b.2 ∧ b.1 < 100 ^ b.2 := by
  induction gs generalizing acc cnt with
  | nil =>
    simp only [packScan] at hb
    split at hb
    next h0 =>
      obtain rfl := List.mem_singleton.1 hb
      exact ⟨hacc, h0, hcnt⟩
    next => cases hb
  | cons g gs ih =>
    obtain ⟨⟨hg99, hgm⟩, hgs⟩ := List.forall_mem_cons.1 hgs
    simp only [packScan] at hb
    split at hb
    next hlt => exact ih hgs hlt (by rw [pow_succ]; omega) hb
    next hge =>
      rcases List.mem_cons.1 hb with rfl | hb
      · refine ⟨hacc, Nat.one_le_iff_ne_zero.2 fun (h0 : cnt = 0) => hge ?_, hcnt⟩
        obtain rfl : acc = 0 := by simpa [h0] using hcnt
        simpa using hgm
      · exact ih hgs hgm (by omega) hb

/-- R194, R196: the blocks of a whole scan, with their number and their letter counts bounded by the
groups'. -/
theorem packScan_blocks {m : Int} {gs : List Nat} (hgs : GroupsBelow m gs) (hm : 0 < m) :
    (packScan m 0 0 gs).length ≤ gs.length ∧
      ∀ b ∈ packScan m 0 0 gs, (b.1 : Int) < m ∧ 1 ≤ b.2 ∧ b.2 ≤ gs.length ∧ b.1 < 100 ^ b.2 := by
  have hsum : ((packScan m 0 0 gs).map Prod.snd).sum = gs.length := by
    rw [packScan_sum, Nat.zero_add]
  have hmem {b} (hb : b ∈ packScan m 0 0 gs) :=
    packScan_mem hgs (acc := 0) (cnt := 0) hm Nat.one_pos hb
  constructor
  · have := List.length_le_sum_of_one_le ((packScan m 0 0 gs).map Prod.snd) (by
      simp only [List.forall_mem_map]
      exact fun b hb => (hmem hb).2.1)
    rwa [hsum, List.length_map] at this
  · intro b hb
    obtain ⟨hv, hc, hd⟩ := hmem hb
    have := List.le_sum_of_mem (List.mem_map_of_mem (f := Prod.snd) hb)
    exact ⟨hv, hc, hsum ▸ this, hd⟩

theorem State.packInput_length_le (s : State) (ngrp : Nat) : (s.packInput ngrp).length ≤ ngrp := by
  unfold State.packInput
  split
  next => simp [State.groups]
  next => exact Nat.zero_le _

/-! ### The window: what an access reaches, the block has (spec/20_memory.md R69 to R71) -/

theorem controlLoc_present {p : Params} {n : Nat} {l : Loc} (h : controlLoc n = some l) :
    l.present p := by
  unfold controlLoc at h
  split at h <;> cases h <;> trivial

/-- A slot maps only its first `NW` words. -/
theorem slotLoc_present {p : Params} {base off : Nat} {mk : Nat → Loc} {l : Loc}
    (hmk : ∀ i, (mk i).present p = (i < p.nw)) (hb : base ≤ off)
    (h : slotLoc p base mk off = some l) : l.present p := by
  unfold slotLoc at h
  split at h
  next hlt => cases h; rw [hmk]; omega
  next => cases h

theorem locate_present {p : Params} (hp : p.Legal) {off : Nat} {l : Loc}
    (h : locate p off = some l) : l.present p := by
  unfold locate at h
  split_ifs at h
  · exact controlLoc_present h
  iterate 7 · exact slotLoc_present (fun _ => rfl) (by omega) h
  · cases h
    obtain ⟨-, -, -, hmod, -, -⟩ := hp
    simp only [Loc.present]
    omega

/-- An access reaches only locations the block has. -/
theorem accessLoc_present {p : Params} (hp : p.Legal) {off : BitVec 13} {l : Loc}
    (h : accessLoc p off = some l) : l.present p := by
  unfold accessLoc at h
  split at h
  next => exact locate_present hp h
  next => cases h

/-! ### The invariant under each update of the state

`h.complete`, `h.accept` and so on: an update of Machine/Ops.lean keeps `State.Inv`. -/

section
variable {s : State}

theorem State.freeMag_lt (s : State) (k : Nat) : s.freeMag k < 2 ^ s.params.width :=
  Nat.mod_lt _ (Nat.two_pow_pos _)

theorem State.Inv.two_le_two_pow (h : s.Inv) : 2 ≤ 2 ^ s.params.width := by
  obtain ⟨-, hw, -⟩ := h.params
  exact Nat.le_self_pow (by omega) 2

theorem State.Inv.withInputs (h : s.Inv) (l : List Input) : (s.withInputs l).Inv := { h with }

theorem State.Inv.reply (h : s.Inv) (r : BusReply) : (s.reply r).Inv := { h with }

theorem State.Inv.replyFree (h : s.Inv) (l : Loc) : (s.replyFree l).Inv := { h with }

theorem State.Inv.releaseReset (h : s.Inv) : s.releaseReset.Inv := { h with inReset := nofun }

/-- R81: an offered word is read as a `W`-bit number. -/
theorem State.Inv.offer (h : s.Inv) (w : Nat) : (s.offer w).Inv :=
  { h with
    rngFits := by
      simp only [State.offer_rng, State.offer_params, List.forall_mem_append,
        List.forall_mem_singleton]
      exact ⟨h.rngFits, Nat.mod_lt _ (Nat.two_pow_pos _)⟩ }

theorem State.Inv.takeWords (h : s.Inv) (k : Nat) : (s.takeWords k).Inv :=
  { h with rngFits := fun w hw => h.rngFits w (List.mem_of_mem_drop hw) }

/-- R262: after a soft reset every control register is at its reset value. -/
theorem State.Inv.softReset (h : s.Inv) : s.softReset.Inv :=
  { h with
    res0Fits := s.freeMag_lt 0, res1Fits := s.freeMag_lt 1, res2Fits := s.freeMag_lt 2
    blkLength := rfl, nblkBound := Nat.zero_le _, blkFits := nofun
    busyDone := nofun, busyFlags := nofun, subCause := iff_of_true rfl nofun
    failure := fun he => absurd rfl he, signX := nofun, signY := nofun
    drawn := fun hd => absurd rfl hd
    inReset := fun _ => ⟨rfl, rfl, rfl, rfl, rfl, rfl⟩ }

/-- R260: a hard reset also makes the operands and the digits free values of their widths. -/
theorem State.Inv.hardReset (h : s.Inv) : s.hardReset.Inv :=
  { h.softReset with
    opaFits := s.freeMag_lt 3, opbFits := s.freeMag_lt 4, opcFits := s.freeMag_lt 5
    digWf := Memory.fill_wf _ _
    digBound := fun c hc => by simpa using Memory.fill_bound _ _ _ c hc
    inReset := fun _ => ⟨rfl, rfl, rfl, rfl, rfl, rfl⟩ }

theorem State.Inv.writeOpa (h : s.Inv) {x : Nat} (hx : x < 2 ^ s.params.width) :
    { s with opa := x }.Inv := { h with opaFits := hx }

theorem State.Inv.writeOpb (h : s.Inv) {x : Nat} (hx : x < 2 ^ s.params.width) :
    { s with opb := x }.Inv := { h with opbFits := hx }

theorem State.Inv.writeOpc (h : s.Inv) {x : Nat} (hx : x < 2 ^ s.params.width) :
    { s with opc := x }.Inv := { h with opcFits := hx }

theorem State.Inv.writeDig (h : s.Inv) {t : Nat} (ht : 4 * t + 3 < s.params.lmax) (v : Word) :
    { s with dig := s.dig.writeWord t v }.Inv :=
  { h with
    digWf := Memory.writeWord_wf h.digWf t v
    digBound := Memory.writeWord_bound h.digBound ht v }

/-! The updates below are made only out of reset. -/

theorem State.absurd_of_inReset {P : Prop} (hr : s.rstN = true) (hr' : s.rstN = false) : P :=
  absurd (hr.symm.trans hr') nofun

variable (h : s.Inv) (hr : s.rstN = true)
include h hr

theorem State.Inv.overrun : s.overrun.Inv :=
  { h with inReset := State.absurd_of_inReset hr }

theorem State.Inv.writeStatus (v : Word) : { s with status := s.status.writeClear v }.Inv :=
  { h with
    busyDone := fun ⟨hb, hd⟩ => h.busyDone ⟨hb, (Bool.and_eq_true_iff.1 hd).1⟩
    inReset := State.absurd_of_inReset hr }

theorem State.Inv.writeIe (b : Bool) : { s with ie := b }.Inv :=
  { h with inReset := State.absurd_of_inReset hr }

theorem State.Inv.writeBlksel (x : Half) : { s with blksel := x }.Inv :=
  { h with inReset := State.absurd_of_inReset hr }

/-- R235: acceptance clears every result flag. -/
theorem State.Inv.accept (c : Word) : (s.accept c).Inv :=
  { h with
    busyDone := nofun, busyFlags := fun _ => ⟨rfl, rfl, rfl, rfl, rfl⟩
    subCause := iff_of_true rfl nofun, failure := fun he => absurd rfl he
    signX := nofun, signY := nofun
    drawn := fun hd => absurd rfl hd
    inReset := State.absurd_of_inReset hr }

/-- R236: a completion keeps the invariant if its codes agree (R232) and its results fit. -/
theorem State.Inv.complete {err : ErrKind} {sub : SubCause} {r : Results}
    (hcode : sub = .none ↔ err ≠ .invalidArgument) (hfit : r.Fit s.params.width) :
    (s.complete err sub r).Inv :=
  have hkept := hfit.kept err
  { h with
    res0Fits := hkept.v0, res1Fits := hkept.v1, res2Fits := hkept.v2
    busyDone := nofun, busyFlags := nofun, subCause := hcode
    failure := fun (he : err ≠ .ok) => by
      simp [Status.completed, Results.kept_of_ne_ok r he]
    signX := hkept.sx, signY := hkept.sy
    drawn := fun hd => absurd rfl hd
    inReset := State.absurd_of_inReset hr }

/-- A failing completion, or one without results. -/
theorem State.Inv.complete_noResults {err : ErrKind} {sub : SubCause}
    (hcode : sub = .none ↔ err ≠ .invalidArgument) : (s.complete err sub {}).Inv :=
  h.complete hr hcode (Results.fit_of_lt (Nat.two_pow_pos _) false)

theorem State.Inv.completeWith {e : Except Failure Nat}
    (hok : ∀ v, e = .ok v → v < 2 ^ s.params.width)
    (herr : ∀ f, e = .error f → f.Coded) : (s.completeWith e).Inv := by
  cases e with
  | ok v => exact h.complete hr (iff_of_true rfl nofun) (Results.fit_of_lt (hok v rfl) false)
  | error f => exact h.complete_noResults hr (herr f rfl).2

theorem State.Inv.mrComplete (v : Bool) (k : Nat) : (s.mrComplete v k).Inv :=
  { (h.takeWords k).complete hr (err := .ok) (r := mrResults v) (iff_of_true rfl nofun)
      (Results.fit_of_lt (v.toNat_lt.trans_le h.two_le_two_pow) v) with
    inReset := State.absurd_of_inReset hr }

omit hr in
/-- R41, R175: a running MRPRIME has drawn at most one word a round. -/
theorem State.Inv.mrDrawn_le {sa : Bool} {rounds : Nat}
    (hd : decode s.cmd = .instr (.mrprime sa rounds)) : s.mrDrawn ≤ rounds := by
  rcases Nat.eq_zero_or_pos s.mrDrawn with h0 | h0
  · omega
  · obtain ⟨-, sa', rounds', hd', hle⟩ := h.drawn (by omega)
    rw [hd] at hd'
    cases hd'
    exact hle

omit hr in
/-- R276: a waiting MRPRIME has taken words of its remaining rounds only. -/
theorem State.Inv.mrWait {sa : Bool} {rounds k : Nat} (hb : s.status.busy = true)
    (hd : decode s.cmd = .instr (.mrprime sa rounds)) (hk : k ≤ rounds - s.mrDrawn) :
    (s.mrWait k).Inv :=
  { h.takeWords k with
    drawn := fun _ => ⟨hb, sa, rounds, hd, by
      have := h.mrDrawn_le hd
      simp only [State.mrWait_mrDrawn]
      omega⟩ }

/-- R25, R194: PACK's blocks fit the table, and their values and counts its fields. -/
theorem State.Inv.completePack {bs : List (Nat × Nat)} (hlen : bs.length ≤ s.params.lmax)
    (hbs : ∀ b ∈ bs, b.1 < 2 ^ s.params.width ∧ 1 ≤ b.2 ∧ b.2 ≤ s.params.lmax ∧ b.1 < 100 ^ b.2) :
    (s.completePack (.ok bs)).Inv := by
  obtain ⟨-, -, -, -, -, hlmax⟩ := h.params
  have hnat : ∀ {n}, n ≤ s.params.lmax → (BitVec.ofNat 16 n).toNat = n := fun hn =>
    (BitVec.toNat_ofNat _ _).trans (Nat.mod_eq_of_lt (by omega))
  exact
    { h.complete_noResults hr (err := .ok) (sub := .none) (iff_of_true rfl nofun) with
      blkLength := by simp [hnat hlen]
      nblkBound := by simpa [hnat hlen] using hlen
      blkFits := by
        simp only [State.completePack_ok_blk, List.forall_mem_map]
        intro b hb
        obtain ⟨hval, hpos, hcap, hdig⟩ := hbs b hb
        exact ⟨hval, by rwa [hnat hcap], by rwa [hnat hcap], by rwa [hnat hcap]⟩
      inReset := State.absurd_of_inReset hr }

theorem State.Inv.completePack_error {f : Failure} (hf : f.Coded) :
    (s.completePack (.error f)).Inv :=
  { h.complete_noResults hr hf.2 with
    blkLength := rfl, nblkBound := Nat.zero_le _, blkFits := nofun
    inReset := State.absurd_of_inReset hr }

end

/-! ### The invariant under each agent's move -/

section
variable {s t : State} (h : s.Inv)
include h

/-- A result below the modulus `C` fits its register. -/
theorem State.Inv.lt_of_lt_operandC {sc : Bool} {v : Nat} (hv : (v : Int) < s.operandC sc) :
    v < 2 ^ s.params.width := by
  have := signedVal_le sc s.opc
  have := h.opcFits
  unfold State.operandC at hv
  omega

theorem State.Inv.of_exec {i : Instr} (hr : s.rstN = true) (hb : s.status.busy = true)
    (hd : decode s.cmd = .instr i) (ht : exec i s = .next t) : t.Inv := by
  rcases exec_cases ht with ⟨sa, sb, rfl, rfl⟩ | ⟨sa, sc, rfl, rfl⟩ | ⟨sa, sb, sc, rfl, rfl⟩ |
    ⟨sa, rounds, v, k, rfl, hk, rfl⟩ | ⟨sa, rounds, k, rfl, hk, rfl⟩ | ⟨sc, ngrp, rfl, rfl⟩
  · refine h.complete hr (iff_of_true rfl nofun) (xgcdResults_fit ?_ ?_ ?_)
    · obtain ⟨-, hw, -⟩ := h.params
      omega
    · simpa [State.operandA] using h.opaFits
    · simpa [State.operandB] using h.opbFits
  · exact h.completeWith hr (fun v hv => h.lt_of_lt_operandC (modinv_lt hv))
      (fun f hf => modinv_error_coded hf)
  · refine h.completeWith hr (fun v hv => ?_) (fun f hf => modexp_error_coded hf)
    rcases modexp_bound hv with h1 | hlt
    · exact Nat.lt_of_le_of_lt h1 h.two_le_two_pow
    · exact h.lt_of_lt_operandC hlt
  · exact h.mrComplete hr v k
  · have hle := mrprime_draws_le (s.operandA sa) (rounds - s.mrDrawn) s.rng
    rw [hk] at hle
    exact h.mrWait hb hd hle
  · cases hp : packGroups s.params.lmax ngrp (s.packInput ngrp) (s.operandC sc) with
    | error f => exact h.completePack_error hr (packGroups_error_coded hp)
    | ok bs =>
      obtain ⟨⟨hm, hn, hgs⟩, rfl⟩ := packGroups_ok hp
      obtain ⟨hlen, hmem⟩ := packScan_blocks hgs (by omega)
      have hin := (s.packInput_length_le ngrp).trans hn
      refine h.completePack hr (hlen.trans hin) fun b hb => ?_
      obtain ⟨hv, hpos, hcnt, hdig⟩ := hmem b hb
      exact ⟨h.lt_of_lt_operandC hv, hpos, hcnt.trans hin, hdig⟩

theorem State.Inv.of_engineStep (ht : engineStep s = .next t) : t.Inv := by
  rcases engineStep_cases ht with rfl | ⟨hr, hb, i, hd, hx⟩ | ⟨hr, -, -, -, rfl⟩
  · exact h
  · exact h.of_exec hr hb hd hx
  · exact h.complete_noResults hr (iff_of_true rfl nofun)

theorem State.Inv.busRead (off : BitVec 13) : (busRead off s).Inv := by
  rcases busRead_cases off s with ⟨r, hs⟩ | ⟨l, -, -, hs⟩ <;> rw [hs]
  · exact h.reply r
  · exact h.replyFree l

/-- R70: a word written within its slot leaves a number of `W` bits. -/
theorem State.Inv.putSlotWord_lt {x i : Nat} (hi : i < s.params.nw) (hx : x < 2 ^ s.params.width)
    (v : Word) : putSlotWord x i v < 2 ^ s.params.width := by
  have hw : s.params.width = 32 * s.params.nw := by
    obtain ⟨hmod, -⟩ := h.params
    unfold Params.nw
    omega
  rw [hw] at hx ⊢
  exact Machine.putSlotWord_lt hi hx

theorem State.Inv.writeLoc (hr : s.rstN = true) {l : Loc} (hl : l.present s.params) (v : Word) :
    (writeLoc l v s).Inv := by
  rcases writeLoc_cases l v s with ⟨-, -, hs⟩ | ⟨rfl, -, hs⟩ | ⟨rfl, hs⟩ | ⟨rfl, -, hs⟩ |
    ⟨rfl, -, hs⟩ | ⟨rfl, hs⟩ | ⟨i, rfl, -, hs⟩ | ⟨i, rfl, -, hs⟩ | ⟨i, rfl, -, hs⟩ |
    ⟨k, rfl, -, hs⟩ | ⟨-, hs⟩ <;> rw [hs]
  · exact h.overrun hr
  · exact h.accept hr v
  · exact h.writeStatus hr v
  · exact h.softReset
  · exact h.writeIe hr _
  · exact h.writeBlksel hr _
  · exact h.writeOpa (h.putSlotWord_lt hl h.opaFits v)
  · exact h.writeOpb (h.putSlotWord_lt hl h.opbFits v)
  · exact h.writeOpc (h.putSlotWord_lt hl h.opcFits v)
  · have hk : k < s.params.lmax / 4 := hl
    exact h.writeDig (by omega) v
  · exact h

theorem State.Inv.busWrite (hr : s.rstN = true) (off : BitVec 13) (strobes : BitVec 4) (v : Word) :
    (busWrite off strobes v s).Inv := by
  rcases busWrite_cases off strobes v s with hs | ⟨l, hl, -, hs⟩ <;> rw [hs]
  · exact h.reply _
  · exact (h.writeLoc hr (accessLoc_present h.params hl) v).reply _

theorem State.Inv.of_step (ht : step s = .next t) : t.Inv := by
  rcases step_cases ht with ⟨l, -, he⟩ | ⟨off, l, -, -, rfl⟩ | ⟨off, strobes, v, l, hr, -, rfl⟩ |
    ⟨w, l, -, rfl⟩ | ⟨l, -, rfl⟩ | ⟨l, -, rfl⟩ | ⟨l, -, -, rfl⟩
  · exact (h.withInputs l).of_engineStep he
  · exact (h.withInputs l).busRead off
  · exact (h.withInputs l).busWrite hr off strobes v
  · exact (h.withInputs l).offer w
  · exact (h.withInputs l).hardReset
  · exact (h.withInputs l).releaseReset
  · exact h.withInputs l

end

/-- Settles O58: by the cases of a step, each of whose updates keeps the invariant; XGCD's results by
R114's bound, PACK's blocks by R194 and R196. -/
theorem stepKeepsInv : Obligations.StepKeepsInv :=
  fun _ _ h ht => h.of_step ht

/-! ### Whose turn a step is (spec/00_scope.md R13, spec/10_state.md R42, spec/30_encoding.md R99) -/

section
variable {s : State}

/-- A script put back is the state itself. -/
theorem State.withInputs_withInputs_of_inputs (l : List Input) {l' : List Input}
    (hi : s.inputs = l') : (s.withInputs l).withInputs l' = s := by
  subst hi
  rfl

/-- With no move left the engine has the turn. -/
theorem step_of_nil (hi : s.inputs = []) : step s = engineStep s := by
  simp only [step, hi]

theorem step_of_engine {l : List Input} (hi : s.inputs = .engine :: l) :
    step s = engineStep (s.withInputs l) := by
  simp only [step, hi, inputStep]

/-- While a command runs, a host that waits leaves the turn to the engine. -/
theorem step_of_wait {l : List Input} (hi : s.inputs = .wait :: l) (hr : s.rstN = true)
    (hb : s.status.busy = true) : step s = engineStep s := by
  have hbusy : (s.rstN && s.status.busy) = true := by rw [hr, hb]; rfl
  simp only [step, hi, inputStep, waitStep, State.withInputs_rstN, State.withInputs_status, hbusy,
    if_true, State.withInputs_inputs, State.withInputs_withInputs_of_inputs l hi]

/-- While `irq` is low, a host that waits for it leaves the turn to the engine. -/
theorem step_of_waitIrq {l : List Input} (hi : s.inputs = .waitIrq :: l) (hq : s.irq = false) :
    step s = engineStep s := by
  have hq' : (s.withInputs l).irq = false := hq
  simp only [step, hi, inputStep, waitIrqStep, hq', Bool.false_eq_true, if_false,
    State.withInputs_inputs, State.withInputs_withInputs_of_inputs l hi]

/-- The engine runs the command `CMD` decodes to. -/
theorem engineStep_of_instr {i : Instr} (hr : s.rstN = true) (hb : s.status.busy = true)
    (hd : decode s.cmd = .instr i) : engineStep s = exec i s := by
  simp [engineStep, hr, hb, hd]

/-- An illegal word completes at once (R237). -/
theorem engineStep_of_illegal {why : IllegalWord} (hr : s.rstN = true)
    (hb : s.status.busy = true) (hd : decode s.cmd = .illegal why) :
    engineStep s = .next s.completeIllegal := by
  simp [engineStep, hr, hb, hd]

end

/-- Settles O5: at each of the four turns of the engine, its step is exec of the decoded command. -/
theorem stepRunsDecodedCommand : Obligations.StepRunsDecodedCommand := by
  intro s i hr hb hd
  have hexec := engineStep_of_instr hr hb hd
  refine ⟨fun hi => ?_, fun l hi => ?_, fun l hi => ?_, fun l hi hq => ?_⟩
  · rw [step_of_nil hi, hexec]
  · exact (step_of_engine hi).trans (engineStep_of_instr (s := s.withInputs l) hr hb hd)
  · rw [step_of_wait hi hr hb, hexec]
  · rw [step_of_waitIrq hi hq, hexec]

/-! ### A command whose words are there completes (R15) -/

theorem State.completeWith_status (s : State) (e : Except Failure Nat) :
    (s.completeWith e).status.busy = false ∧ (s.completeWith e).status.done = true := by
  cases e <;> exact ⟨rfl, rfl⟩

theorem State.completePack_status (s : State) (e : Except Failure (List (Nat × Nat))) :
    (s.completePack e).status.busy = false ∧ (s.completePack e).status.done = true := by
  cases e <;> exact ⟨rfl, rfl⟩

/-- MRPRIME with a word for every round left has a verdict. -/
theorem mrprime_verdict_isSome {s : State} {sa : Bool} {rounds : Nat}
    (hw : s.wordsSuffice (.mrprime sa rounds) = true) :
    (mrprime (s.operandA sa) (rounds - s.mrDrawn) s.rng).verdict.isSome = true := by
  unfold mrprime
  split
  next => rfl
  next hdet =>
    refine mrRounds_verdict_isSome _ ?_
    simpa [State.wordsSuffice, hdet] using hw

/-- A command that need not wait completes in its one step (R236). -/
theorem exec_completes {i : Instr} {s : State} (hw : s.wordsSuffice i = true) :
    ∃ t, exec i s = .next t ∧ t.status.busy = false ∧ t.status.done = true := by
  cases i with
  | xgcd sa sb => exact ⟨_, rfl, rfl, rfl⟩
  | modinv sa sc => exact ⟨_, rfl, s.completeWith_status _⟩
  | modexp sa sb sc => exact ⟨_, rfl, s.completeWith_status _⟩
  | mrprime sa rounds =>
    have hv := mrprime_verdict_isSome hw
    simp only [exec, execMrprime]
    split
    next => exact ⟨_, rfl, rfl, rfl⟩
    next hm => simp [hm] at hv
  | pack sc ngrp => exact ⟨_, rfl, s.completePack_status _⟩

/-- Settles O10: the engine's turn completes an illegal word always, and a command when its words
suffice. -/
theorem acceptedCommandCompletes : Obligations.AcceptedCommandCompletes := by
  intro s hr hb hi hw
  rw [step_of_nil hi]
  cases hd : decode s.cmd with
  | instr i =>
    rw [engineStep_of_instr hr hb hd]
    exact exec_completes (hw i hd)
  | illegal why =>
    rw [engineStep_of_illegal hr hb hd]
    exact ⟨_, rfl, rfl, rfl⟩

/-! ### What a command's outcome depends on (R14, R44) -/

/-- A command has come as far from `s` to `t` as from `s'` to `t'`: both are complete, with the same
results, flags, advance of `RNGCNT` and, for PACK, blocks, or neither is. -/
def SameOutcome (i : Instr) (s s' t t' : State) : Prop :=
  t.status.busy = t'.status.busy ∧
  (t.status.busy = false →
    t.res0 = t'.res0 ∧ t.res1 = t'.res1 ∧ t.res2 = t'.res2 ∧
    t.status.prime = t'.status.prime ∧ t.status.err = t'.status.err ∧
    t.status.sub = t'.status.sub ∧ t.status.sx = t'.status.sx ∧ t.status.sy = t'.status.sy ∧
    t.rngcnt - s.rngcnt = t'.rngcnt - s'.rngcnt ∧
    (∀ sc ngrp, i = .pack sc ngrp → t.nblk = t'.nblk ∧ t.blk = t'.blk))

section
variable (s s' : State)

/-- Completions of a command other than PACK with the same codes and results. -/
theorem sameOutcome_complete {i : Instr} (hi : ∀ sc ngrp, i ≠ .pack sc ngrp) (err : ErrKind)
    (sub : SubCause) (r : Results) :
    SameOutcome i s s' (s.complete err sub r) (s'.complete err sub r) :=
  ⟨rfl, fun _ => ⟨rfl, rfl, rfl, rfl, rfl, rfl, rfl, rfl, by simp,
    fun sc ngrp h => absurd h (hi sc ngrp)⟩⟩

theorem sameOutcome_completeWith {i : Instr} (hi : ∀ sc ngrp, i ≠ .pack sc ngrp)
    (e : Except Failure Nat) : SameOutcome i s s' (s.completeWith e) (s'.completeWith e) := by
  cases e <;> exact sameOutcome_complete s s' hi _ _ _

theorem sameOutcome_mrComplete {s s' : State} (hdrawn : s.mrDrawn = s'.mrDrawn) (sa : Bool)
    (rounds : Nat) (v : Bool) (k : Nat) :
    SameOutcome (.mrprime sa rounds) s s' (s.mrComplete v k) (s'.mrComplete v k) :=
  ⟨rfl, fun _ => ⟨rfl, rfl, rfl, rfl, rfl, rfl, rfl, rfl,
    by simp [hdrawn, add_sub_cancel_left], nofun⟩⟩

/-- Two commands that both wait have no outcome yet. -/
theorem sameOutcome_mrWait {s s' : State} (hb : s.status.busy = true)
    (hb' : s'.status.busy = true) (i : Instr) (k : Nat) :
    SameOutcome i s s' (s.mrWait k) (s'.mrWait k) :=
  ⟨hb.trans hb'.symm, fun h => absurd (hb.symm.trans h) nofun⟩

theorem sameOutcome_completePack (i : Instr) (e : Except Failure (List (Nat × Nat))) :
    SameOutcome i s s' (s.completePack e) (s'.completePack e) := by
  cases e <;> exact ⟨rfl, fun _ => ⟨rfl, rfl, rfl, rfl, rfl, rfl, rfl, rfl, by simp,
    fun _ _ _ => ⟨rfl, rfl⟩⟩⟩

end

/-- PACK's groups are the digits it reads and, when they are too many, none (R187). -/
theorem packInput_congr {s s' : State} {ngrp : Nat} (hl : s.params.lmax = s'.params.lmax)
    (hk : ∀ k, k < ngrp → s.dig.readByte k = s'.dig.readByte k) :
    s.packInput ngrp = s'.packInput ngrp := by
  have hgroups : s.groups ngrp = s'.groups ngrp :=
    List.map_congr_left fun k hm => by rw [hk k (List.mem_range.1 hm)]
  simp only [State.packInput, hl, hgroups]

/-- Settles O37: command by command, the function that gives the outcome has the same arguments in
both states. -/
theorem commandDependsOnlyOnItsReads : Obligations.CommandDependsOnlyOnItsReads := by
  intro i s s' t t' hb hb' hreads ht ht'
  change SameOutcome i s s' t t'
  cases i with
  | xgcd sa sb =>
    obtain ⟨ha, hb⟩ := hreads
    cases ht; cases ht'
    simp only [State.operandA, State.operandB, ha, hb]
    exact sameOutcome_complete s s' (by simp) _ _ _
  | modinv sa sc =>
    obtain ⟨ha, hc⟩ := hreads
    cases ht; cases ht'
    simp only [State.operandA, State.operandC, ha, hc]
    exact sameOutcome_completeWith s s' (by simp) _
  | modexp sa sb sc =>
    obtain ⟨ha, hb, hc⟩ := hreads
    cases ht; cases ht'
    simp only [State.operandA, State.operandB, State.operandC, ha, hb, hc]
    exact sameOutcome_completeWith s s' (by simp) _
  | mrprime sa rounds =>
    obtain ⟨ha, hrng, hdrawn⟩ := hreads
    simp only [exec, execMrprime, State.operandA, ha, hrng, hdrawn] at ht ht'
    split at ht
    next v k hm =>
      simp only [hm] at ht'
      cases ht; cases ht'
      exact sameOutcome_mrComplete hdrawn sa rounds v k
    next k hm =>
      simp only [hm] at ht'
      cases ht; cases ht'
      exact sameOutcome_mrWait hb hb' _ k
  | pack sc ngrp =>
    obtain ⟨hc, hlmax, hdig⟩ := hreads
    cases ht; cases ht'
    simp only [State.operandC, hc, hlmax, packInput_congr hlmax hdig]
    exact sameOutcome_completePack s s' _ _

end Sys2Proof.Machine
end

section
/-! PROOFS. The family of spec/10_state.md: the frame of every command (R44, R238), what a step does to `STATUS` (R28, R33), the block table (R25, R37) and the randomness stream (R41), what a read returns (R26 to R40), the layout of `STATUS` (R27), and the state after reset (R43). -/

namespace Sys2Proof.Machine

/-! ### The update a command makes (R44, R236) -/

section
variable {s t : State}

/-- A command whose function gives a value or a failure completes with one or the other. -/
theorem State.completeWith_eq_complete (s : State) (e : Except Failure Nat) :
    ∃ err sub r, s.completeWith e = s.complete err sub r := by
  cases e with
  | ok v => exact ⟨_, _, _, rfl⟩
  | error f => exact ⟨_, _, _, rfl⟩

/-- PACK's completion is the common one, and it writes the blocks. -/
theorem State.completePack_eq_complete (s : State) (e : Except Failure (List (Nat × Nat))) :
    ∃ err sub n b, s.completePack e = { s.complete err sub {} with nblk := n, blk := b } := by
  cases e with
  | ok bs => exact ⟨_, _, _, _, rfl⟩
  | error f => exact ⟨_, _, _, _, rfl⟩

/-- Every command makes one of four updates, whatever its function answers: the common completion,
PACK's, MRPRIME's, or MRPRIME's taking of words. -/
theorem exec_updates {i : Instr} (h : exec i s = .next t) :
    (∃ err sub r, t = s.complete err sub r) ∨
    (∃ sc ngrp err sub n b, i = .pack sc ngrp ∧
      t = { s.complete err sub {} with nblk := n, blk := b }) ∨
    (∃ sa rounds v k, i = .mrprime sa rounds ∧ t = s.mrComplete v k) ∨
    (∃ sa rounds k, i = .mrprime sa rounds ∧ t = s.mrWait k) := by
  rcases exec_cases h with ⟨_, _, -, rfl⟩ | ⟨_, _, -, rfl⟩ | ⟨_, _, _, -, rfl⟩ |
    ⟨sa, rounds, v, k, rfl, -, rfl⟩ | ⟨sa, rounds, k, rfl, -, rfl⟩ | ⟨sc, ngrp, rfl, rfl⟩
  · exact .inl ⟨_, _, _, rfl⟩
  · exact .inl (s.completeWith_eq_complete _)
  · exact .inl (s.completeWith_eq_complete _)
  · exact .inr (.inr (.inl ⟨sa, rounds, v, k, rfl, rfl⟩))
  · exact .inr (.inr (.inr ⟨sa, rounds, k, rfl, rfl⟩))
  · obtain ⟨err, sub, n, b, hs⟩ := s.completePack_eq_complete _
    exact .inr (.inl ⟨sc, ngrp, err, sub, n, b, rfl, hs⟩)

/-- Only PACK writes the block table (R44). -/
theorem exec_keeps_blocks {i : Instr} (h : exec i s = .next t)
    (hi : ∀ sc ngrp, i ≠ .pack sc ngrp) : t.nblk = s.nblk ∧ t.blk = s.blk := by
  rcases exec_updates h with ⟨_, _, _, rfl⟩ | ⟨sc, ngrp, _, _, _, _, hp, -⟩ |
    ⟨_, _, _, _, -, rfl⟩ | ⟨_, _, _, -, rfl⟩
  · exact ⟨rfl, rfl⟩
  · exact absurd hp (hi sc ngrp)
  · exact ⟨rfl, rfl⟩
  · exact ⟨rfl, rfl⟩

/-- Only MRPRIME draws words and counts them (R44). -/
theorem exec_keeps_stream {i : Instr} (h : exec i s = .next t)
    (hi : ∀ sa rounds, i ≠ .mrprime sa rounds) :
    t.rngcnt = s.rngcnt ∧ t.rng = s.rng ∧ t.rpos = s.rpos := by
  rcases exec_updates h with ⟨_, _, _, rfl⟩ | ⟨_, _, _, _, _, _, -, rfl⟩ |
    ⟨sa, rounds, _, _, hm, -⟩ | ⟨sa, rounds, _, hm, -⟩
  · exact ⟨rfl, rfl, rfl⟩
  · exact ⟨rfl, rfl, rfl⟩
  · exact absurd hm (hi sa rounds)
  · exact absurd hm (hi sa rounds)

/-- A command completes, or waits and leaves `STATUS` alone. -/
theorem exec_status {i : Instr} (h : exec i s = .next t) :
    t.status = s.status ∨ ∃ err sub r, t.status = s.status.completed err sub r := by
  rcases exec_updates h with ⟨_, _, _, rfl⟩ | ⟨_, _, _, _, _, _, -, rfl⟩ |
    ⟨_, _, _, _, -, rfl⟩ | ⟨_, _, _, -, rfl⟩
  · exact .inr ⟨_, _, _, rfl⟩
  · exact .inr ⟨_, _, _, rfl⟩
  · exact .inr ⟨_, _, _, rfl⟩
  · exact .inl rfl

/-- A command takes words from the front of the stream, or none (R41, R81). -/
theorem exec_takes {i : Instr} (h : exec i s = .next t) :
    ∃ k, t.rpos = s.rpos + k ∧ t.rng = s.rng.drop k := by
  rcases exec_updates h with ⟨_, _, _, rfl⟩ | ⟨_, _, _, _, _, _, -, rfl⟩ |
    ⟨_, _, _, k, -, rfl⟩ | ⟨_, _, k, -, rfl⟩
  · exact ⟨0, rfl, rfl⟩
  · exact ⟨0, rfl, rfl⟩
  · exact ⟨k, rfl, rfl⟩
  · exact ⟨k, rfl, rfl⟩

end

/-- Settles O36: none of the four updates of a command touches the common frame; the blocks are
PACK's, the stream is MRPRIME's. -/
theorem commandFrame : Obligations.CommandFrame := by
  intro i s t h
  refine ⟨?_, exec_keeps_blocks h, exec_keeps_stream h⟩
  rcases exec_updates h with ⟨_, _, _, rfl⟩ | ⟨_, _, _, _, _, _, -, rfl⟩ |
    ⟨_, _, _, _, -, rfl⟩ | ⟨_, _, _, -, rfl⟩ <;>
  exact ⟨rfl, rfl, rfl, rfl, fun _ => rfl, rfl, rfl, rfl, rfl, rfl, rfl, rfl, rfl⟩

/-! ### The host's accesses as steps (spec/20_memory.md R62, R72) -/

section
variable {s t : State}

/-- Out of reset a full-word write to a mapped location is carried out and answered `OKAY`. -/
theorem step_of_write {off : BitVec 13} {v : Word} {loc : Loc} {l : List Input}
    (hr : s.rstN = true) (hi : s.inputs = .write off 0xF v :: l)
    (hl : accessLoc s.params off = some loc) :
    step s = .next ((writeLoc loc v (s.withInputs l)).reply (.write .okay)) := by
  simp [step, hi, inputStep, hostStep, hr, busWrite, hl]

/-- Out of reset a read is answered. -/
theorem step_of_read {off : BitVec 13} {l : List Input} (hr : s.rstN = true)
    (hi : s.inputs = .read off :: l) : step s = .next (busRead off (s.withInputs l)) := by
  simp [step, hi, inputStep, hostStep, hr]

/-- A write made in reset has no next state. -/
theorem rstN_of_write {off : BitVec 13} {strobes : BitVec 4} {v : Word} {l : List Input}
    (hi : s.inputs = .write off strobes v :: l) (h : step s = .next t) : s.rstN = true := by
  by_contra hr
  simp [step, hi, inputStep, hostStep, hr] at h

/-- The step of a full-word write, when there is one. -/
theorem step_of_nextWrites {loc : Loc} {v : Word} (hw : s.nextWrites loc v)
    (h : step s = .next t) :
    ∃ l, t = (writeLoc loc v (s.withInputs l)).reply (.write .okay) := by
  obtain ⟨off, l, hi, hl⟩ := hw
  have ht := h.symm.trans (step_of_write (rstN_of_write hi h) hi hl)
  exact ⟨l, by simpa using ht⟩

theorem State.unlessBusy_of_busy (u : State) (hb : s.status.busy = true) :
    s.unlessBusy u = s.overrun := if_pos hb

/-- R72: a write to a held register while a command runs is dropped and flagged. -/
theorem writeLoc_of_held {l : Loc} (v : Word) (hl : l.heldWhileBusy = true)
    (hb : s.status.busy = true) : writeLoc l v s = s.overrun := by
  cases l with
  | cmd | opa | opb | opc | dig => exact State.unlessBusy_of_busy _ hb
  | _ => cases hl

/-- A read changes the reply, and at most the counter of free values beside it (R68). -/
theorem busRead_frame (off : BitVec 13) (s : State) :
    ∃ r n, busRead off s = { s with bus := r, freeCtr := n } := by
  rcases busRead_cases off s with ⟨r, hs⟩ | ⟨l, -, -, hs⟩
  · exact ⟨_, _, hs⟩
  · exact ⟨_, _, hs⟩

end

/-! ### What a step does to `STATUS` (R28, R33) -/

section
variable {s t : State}

theorem engineStep_status (h : engineStep s = .next t) :
    t.status = s.status ∨
    (s.status.busy = true ∧ ∃ err sub r, t.status = s.status.completed err sub r) := by
  rcases engineStep_cases h with rfl | ⟨-, hb, i, -, hx⟩ | ⟨-, hb, -, -, rfl⟩
  · exact .inl rfl
  · exact (exec_status hx).imp id fun hs => ⟨hb, hs⟩
  · exact .inr ⟨hb, _, _, _, rfl⟩

theorem writeLoc_status (l : Loc) (v : Word) (s : State) :
    (writeLoc l v s).status = s.status ∨
    (l.heldWhileBusy = true ∧ s.status.busy = true ∧
      (writeLoc l v s).status = s.status.overrun) ∨
    (l = .cmd ∧ (writeLoc l v s).cmd = v ∧ (writeLoc l v s).status = s.status.accepted) ∨
    (l = .status ∧ (writeLoc l v s).status = s.status.writeClear v) ∨
    (l = .ctrl ∧ v.getLsbD 1 = true ∧ (writeLoc l v s).status = Status.reset) := by
  rcases writeLoc_cases l v s with ⟨hl, hb, hs⟩ | ⟨hl, -, hs⟩ | ⟨hl, hs⟩ | ⟨hl, hv, hs⟩ |
    ⟨-, -, hs⟩ | ⟨-, hs⟩ | ⟨i, -, -, hs⟩ | ⟨i, -, -, hs⟩ | ⟨i, -, -, hs⟩ | ⟨k, -, -, hs⟩ |
    ⟨-, hs⟩ <;> rw [hs]
  · exact .inr (.inl ⟨hl, hb, rfl⟩)
  · exact .inr (.inr (.inl ⟨hl, rfl, rfl⟩))
  · exact .inr (.inr (.inr (.inl ⟨hl, rfl⟩)))
  · exact .inr (.inr (.inr (.inr ⟨hl, hv, rfl⟩)))
  all_goals exact .inl rfl

/-- Everything a step can do to `STATUS`: a completion, a dropped write, an acceptance, a write of
`STATUS`, or a reset; else it is left alone. -/
theorem step_status (h : step s = .next t) :
    t.status = s.status ∨
    (s.status.busy = true ∧ ∃ err sub r, t.status = s.status.completed err sub r) ∨
    (s.status.busy = true ∧ (∃ l v, s.nextWrites l v ∧ l.heldWhileBusy = true) ∧
      t.status = s.status.overrun) ∨
    (∃ v, s.nextWrites .cmd v ∧ t.cmd = v ∧ t.status = s.status.accepted) ∨
    (∃ v, s.nextWrites .status v ∧ t.status = s.status.writeClear v) ∨
    (s.nextResets ∧ t.status = Status.reset) := by
  rcases step_cases h with ⟨l, -, he⟩ | ⟨off, l, -, -, rfl⟩ | ⟨off, strobes, v, l, -, hi, rfl⟩ |
    ⟨w, l, -, rfl⟩ | ⟨l, hi, rfl⟩ | ⟨l, -, rfl⟩ | ⟨l, -, -, rfl⟩
  · exact (engineStep_status he).imp id .inl
  · obtain ⟨r, n, hs⟩ := busRead_frame off (s.withInputs l)
    exact .inl (by rw [hs]; rfl)
  · rcases busWrite_cases off strobes v (s.withInputs l) with hs | ⟨loc, hl, rfl, hs⟩ <;> rw [hs]
    · exact .inl rfl
    · have hw : s.nextWrites loc v := ⟨off, l, hi, hl⟩
      rcases writeLoc_status loc v (s.withInputs l) with hs | ⟨hheld, hb, hs⟩ | ⟨rfl, hc, hs⟩ |
        ⟨rfl, hs⟩ | ⟨rfl, hv, hs⟩
      · exact .inl hs
      · exact .inr (.inr (.inl ⟨hb, ⟨loc, v, hw, hheld⟩, hs⟩))
      · exact .inr (.inr (.inr (.inl ⟨v, hw, hc, hs⟩)))
      · exact .inr (.inr (.inr (.inr (.inl ⟨v, hw, hs⟩))))
      · exact .inr (.inr (.inr (.inr (.inr ⟨.inl ⟨v, hw, hv⟩, hs⟩))))
  · exact .inl rfl
  · exact .inr (.inr (.inr (.inr (.inr ⟨.inr ⟨l, hi⟩, rfl⟩))))
  · exact .inl rfl
  · exact .inl rfl

/-- A write dropped while a command runs leaves `OVR` set (R33). -/
theorem step_ovr_of_dropped {l : Loc} {v : Word} (h : step s = .next t)
    (hb : s.status.busy = true) (hw : s.nextWrites l v) (hl : l.heldWhileBusy = true) :
    t.status.ovr = true := by
  obtain ⟨rest, rfl⟩ := step_of_nextWrites hw h
  rw [writeLoc_of_held (s := s.withInputs rest) v hl hb]
  rfl

end

/-- A flag that keeps its value neither rises nor falls. -/
theorem flag_kept {b : Bool} {P Q : Prop} :
    (b = false → b = true → P) ∧ (b = true → b = false → Q) :=
  ⟨fun h0 h1 => absurd h1 (ne_true_of_eq_false h0),
    fun h1 h0 => absurd h1 (ne_true_of_eq_false h0)⟩

/-- Settles O39: of what a step can do to `STATUS`, acceptance alone sets `BUSY`, and completion and
reset alone clear it. -/
theorem busyChangesOnly : Obligations.BusyChangesOnly := by
  intro s t h
  rcases step_status h with hs | ⟨-, _, _, _, hs⟩ | ⟨-, -, hs⟩ | ⟨v, hw, hc, hs⟩ | ⟨v, -, hs⟩ |
    ⟨hr, hs⟩ <;> rw [hs]
  · exact flag_kept
  · exact ⟨nofun, fun _ _ => .inl rfl⟩
  · exact flag_kept
  · exact ⟨fun _ _ => ⟨v, hw, hc⟩, nofun⟩
  · exact flag_kept
  · exact ⟨nofun, fun _ _ => .inr hr⟩

/-- Settles O40: of what a step can do to `STATUS`, a dropped write alone sets `OVR`, and a write of
`STATUS` with bit 14 and reset alone clear it. -/
theorem overrunIsSticky : Obligations.OverrunIsSticky := by
  intro s t h
  obtain ⟨hrise, hfall⟩ : (s.status.ovr = false → t.status.ovr = true →
        s.status.busy = true ∧ ∃ l v, s.nextWrites l v ∧ l.heldWhileBusy = true) ∧
      (s.status.ovr = true → t.status.ovr = false →
        (∃ v, s.nextWrites .status v ∧ v.getLsbD 14 = true) ∨ s.nextResets) := by
    rcases step_status h with hs | ⟨-, _, _, _, hs⟩ | ⟨hb, hw, hs⟩ | ⟨v, -, -, hs⟩ |
      ⟨v, hw, hs⟩ | ⟨hr, hs⟩ <;> rw [hs]
    · exact flag_kept
    · exact flag_kept
    · exact ⟨fun _ _ => ⟨hb, hw⟩, nofun⟩
    · exact flag_kept
    · refine ⟨fun h0 h1 => ?_, fun h1 h0 => .inl ⟨v, hw, ?_⟩⟩
      · simp [Status.writeClear, h0] at h1
      · simpa [Status.writeClear, h1] using h0
    · exact ⟨nofun, fun _ _ => .inr hr⟩
  exact ⟨hfall, fun h0 =>
    ⟨hrise h0, fun ⟨hb, l, v, hw, hl⟩ => step_ovr_of_dropped h hb hw hl⟩⟩

/-! ### The block table and the stream (R25, R37, R41) -/

section
variable {s t : State}

theorem engineStep_blocks (h : engineStep s = .next t) :
    (t.nblk = s.nblk ∧ t.blk = s.blk) ∨
    (s.status.busy = true ∧ t.status.busy = false ∧
      ∃ sc ngrp, decode s.cmd = .instr (.pack sc ngrp)) := by
  rcases engineStep_cases h with rfl | ⟨-, hb, i, hd, hx⟩ | ⟨-, -, -, -, rfl⟩
  · exact .inl ⟨rfl, rfl⟩
  · rcases exec_updates hx with ⟨_, _, _, rfl⟩ | ⟨sc, ngrp, _, _, _, _, rfl, rfl⟩ |
      ⟨_, _, _, _, -, rfl⟩ | ⟨_, _, _, -, rfl⟩
    · exact .inl ⟨rfl, rfl⟩
    · exact .inr ⟨hb, rfl, sc, ngrp, hd⟩
    · exact .inl ⟨rfl, rfl⟩
    · exact .inl ⟨rfl, rfl⟩
  · exact .inl ⟨rfl, rfl⟩

/-- A write leaves the block table alone, unless it resets the block. -/
theorem writeLoc_blocks (l : Loc) (v : Word) (s : State) :
    ((writeLoc l v s).nblk = s.nblk ∧ (writeLoc l v s).blk = s.blk) ∨
    (l = .ctrl ∧ v.getLsbD 1 = true) := by
  rcases writeLoc_cases l v s with ⟨-, -, hs⟩ | ⟨-, -, hs⟩ | ⟨-, hs⟩ | ⟨hl, hv, -⟩ |
    ⟨-, -, hs⟩ | ⟨-, hs⟩ | ⟨i, -, -, hs⟩ | ⟨i, -, -, hs⟩ | ⟨i, -, -, hs⟩ | ⟨k, -, -, hs⟩ |
    ⟨-, hs⟩
  case inr.inr.inr.inl => exact .inr ⟨hl, hv⟩
  all_goals rw [hs]; exact .inl ⟨rfl, rfl⟩

theorem engineStep_takes (h : engineStep s = .next t) :
    ∃ k, t.rpos = s.rpos + k ∧ t.rng = s.rng.drop k := by
  rcases engineStep_cases h with rfl | ⟨-, -, i, -, hx⟩ | ⟨-, -, -, -, rfl⟩
  · exact ⟨0, rfl, rfl⟩
  · exact exec_takes hx
  · exact ⟨0, rfl, rfl⟩

/-- No write touches the stream, not even one that resets the block (R263). -/
theorem writeLoc_stream (l : Loc) (v : Word) (s : State) :
    (writeLoc l v s).rpos = s.rpos ∧ (writeLoc l v s).rng = s.rng := by
  rcases writeLoc_cases l v s with ⟨-, -, hs⟩ | ⟨-, -, hs⟩ | ⟨-, hs⟩ | ⟨-, -, hs⟩ |
    ⟨-, -, hs⟩ | ⟨-, hs⟩ | ⟨i, -, -, hs⟩ | ⟨i, -, -, hs⟩ | ⟨i, -, -, hs⟩ | ⟨k, -, -, hs⟩ |
    ⟨-, hs⟩ <;> rw [hs] <;> exact ⟨rfl, rfl⟩

theorem busWrite_stream (off : BitVec 13) (strobes : BitVec 4) (v : Word) (s : State) :
    (busWrite off strobes v s).rpos = s.rpos ∧ (busWrite off strobes v s).rng = s.rng := by
  rcases busWrite_cases off strobes v s with hs | ⟨loc, -, -, hs⟩ <;> rw [hs]
  · exact ⟨rfl, rfl⟩
  · exact writeLoc_stream loc v s

end

/-- Settles O41: of the moves of a step only the engine's, at a PACK, and a reset write the blocks. -/
theorem blocksChangeOnlyByPack : Obligations.BlocksChangeOnlyByPack := by
  intro s t h hne
  have hsame : ¬(t.nblk = s.nblk ∧ t.blk = s.blk) := fun ⟨hn, hb⟩ => hne.elim (· hn) (· hb)
  rcases step_cases h with ⟨l, -, he⟩ | ⟨off, l, -, -, rfl⟩ | ⟨off, strobes, v, l, -, hi, rfl⟩ |
    ⟨w, l, -, rfl⟩ | ⟨l, hi, rfl⟩ | ⟨l, -, rfl⟩ | ⟨l, -, -, rfl⟩
  · exact .inl ((engineStep_blocks he).resolve_left hsame)
  · obtain ⟨r, n, hs⟩ := busRead_frame off (s.withInputs l)
    exact absurd (by rw [hs]; exact ⟨rfl, rfl⟩) hsame
  · rcases busWrite_cases off strobes v (s.withInputs l) with hs | ⟨loc, hl, rfl, hs⟩ <;>
      rw [hs] at hsame
    · exact absurd ⟨rfl, rfl⟩ hsame
    · obtain ⟨rfl, hv⟩ := (writeLoc_blocks loc v (s.withInputs l)).resolve_left hsame
      exact .inr (.inl ⟨v, ⟨off, l, hi, hl⟩, hv⟩)
  · exact absurd ⟨rfl, rfl⟩ hsame
  · exact .inr (.inr ⟨l, hi⟩)
  · exact absurd ⟨rfl, rfl⟩ hsame
  · exact absurd ⟨rfl, rfl⟩ hsame

/-- Settles O42: the engine takes words from the front, the source adds one, and no other move
touches the stream. -/
theorem streamOnlyAdvances : Obligations.StreamOnlyAdvances := by
  intro s t h
  rcases step_cases h with ⟨l, -, he⟩ | ⟨off, l, -, -, rfl⟩ | ⟨off, strobes, v, l, -, -, rfl⟩ |
    ⟨w, l, hi, rfl⟩ | ⟨l, -, rfl⟩ | ⟨l, -, rfl⟩ | ⟨l, -, -, rfl⟩
  · obtain ⟨k, hpos, hrng⟩ := engineStep_takes he
    exact ⟨k, hpos, .inl hrng⟩
  · obtain ⟨r, n, hs⟩ := busRead_frame off (s.withInputs l)
    rw [hs]
    exact ⟨0, rfl, .inl rfl⟩
  · obtain ⟨hpos, hrng⟩ := busWrite_stream off strobes v (s.withInputs l)
    exact ⟨0, hpos, .inl hrng⟩
  · exact ⟨0, rfl, .inr ⟨rfl, w, l, hi, rfl⟩⟩
  · exact ⟨0, rfl, .inl rfl⟩
  · exact ⟨0, rfl, .inl rfl⟩
  · exact ⟨0, rfl, .inl rfl⟩

/-! ### What a read returns (R26, R34 to R40, R70, R71, R73) -/

section
variable {s : State}

/-- The concatenation of two words, as a number. -/
theorem toNat_append_eq_add {m n : Nat} (x : BitVec m) (y : BitVec n) :
    (x ++ y).toNat = x.toNat * 2 ^ n + y.toNat := by
  rw [BitVec.toNat_append, ← Nat.shiftLeft_add_eq_or_of_lt y.isLt, Nat.shiftLeft_eq]

theorem ctrlWord_toNat (ie : Bool) : (ctrlWord ie).toNat = ie.toNat := by
  cases ie <;> rfl

/-- A 16-bit field reads as its own number. -/
theorem toNat_setWidth_half (x : Half) : (x.setWidth 32).toNat = x.toNat :=
  BitVec.toNat_setWidth_of_le (by decide)

/-- R35: with legal parameters both fields of `PARAM` hold their numbers. -/
theorem paramWord_toNat {p : Params} (hp : p.Legal) :
    (paramWord p).toNat = p.lmax * 2 ^ 16 + p.width / 32 := by
  obtain ⟨-, -, hwidth, -, -, hlmax⟩ := hp
  have hnw : p.width / 32 < 2 ^ 8 := by omega
  have hl : p.lmax < 2 ^ 16 := by omega
  have hzero : (0 : BitVec 8).toNat = 0 := rfl
  simp only [paramWord, Params.nw, toNat_append_eq_add, BitVec.toNat_ofNat, hzero,
    Nat.mod_eq_of_lt hnw, Nat.mod_eq_of_lt hl]
  omega

/-- R71: the first group of a digit word is its least significant byte. -/
theorem Memory.readWord_toNat (m : Memory) (t : Nat) :
    (m.readWord t).toNat = (m.readByte (4 * t)).toNat + 2 ^ 8 * (m.readByte (4 * t + 1)).toNat +
      2 ^ 16 * (m.readByte (4 * t + 2)).toNat + 2 ^ 24 * (m.readByte (4 * t + 3)).toNat := by
  simp only [Memory.readWord, toNat_append_eq_add]
  ring

/-- R73: while no command runs a result reads as it is stored. -/
theorem State.resultWord_of_idle (x i : Nat) (hb : s.status.busy = false) :
    s.resultWord x i = some (slotWord x i) := by
  simp only [State.resultWord, hb, Bool.false_eq_true, if_false]

/-- R39: the views show the entry `BLKSEL` names. -/
theorem State.viewedBlock_eq {b : Block} (hp : s.packRunning = false)
    (hlt : s.blksel.toNat < s.nblk.toNat) (hb : s.blk[s.blksel.toNat]? = some b) :
    s.viewedBlock = some b := by
  simp only [State.viewedBlock, hp, Bool.false_eq_true, if_false, if_pos hlt, hb]

/-- What a location holds does not depend on the script. -/
theorem readLoc_withInputs (loc : Loc) (s : State) (l : List Input) :
    readLoc loc (s.withInputs l) = readLoc loc s := by
  cases loc <;> rfl

/-- A read of a location with data `x` is answered `OKAY` with the word of `x`'s number. -/
theorem step_of_readLoc {off : BitVec 13} {loc : Loc} {l : List Input} {x w : Word}
    (hr : s.rstN = true) (hi : s.inputs = .read off :: l)
    (hl : accessLoc s.params off = some loc) (hx : readLoc loc s = some x)
    (hw : w.toNat = x.toNat) : step s = .next { s with inputs := l, bus := .read .okay w } := by
  obtain rfl := BitVec.eq_of_toNat_eq hw
  rw [step_of_read hr hi,
    busRead_of_readLoc (s := s.withInputs l) hl ((readLoc_withInputs loc s l).trans hx)]
  rfl

end

/-- Settles O47: location by location, the word a read returns has the number the spec gives. -/
theorem readData : Obligations.ReadData := by
  intro s off loc l w hr hi hl hw
  have reads {x : Word} (hx : readLoc loc s = some x) (hwx : w.toNat = x.toNat) :=
    step_of_readLoc hr hi hl hx hwx
  cases loc with
  | cmd | status | rngcnt | version => exact reads rfl (congrArg BitVec.toNat hw)
  | ctrl => exact reads rfl (hw.trans (ctrlWord_toNat _).symm)
  | blksel => exact reads rfl (hw.trans (toNat_setWidth_half _).symm)
  | nblk =>
    obtain ⟨hp, hw⟩ := hw
    exact reads (if_neg (ne_true_of_eq_false hp)) (hw.trans (toNat_setWidth_half _).symm)
  | blkcnt =>
    obtain ⟨hp, hlt, b, hb, hw⟩ := hw
    exact reads (congrArg (Option.map _) (State.viewedBlock_eq hp hlt hb))
      (hw.trans (toNat_setWidth_half _).symm)
  | param =>
    obtain ⟨hp, hw⟩ := hw
    exact reads rfl (hw.trans (paramWord_toNat hp).symm)
  | opa i | opb i | opc i => exact reads rfl (hw.trans (slotWord_toNat _ _).symm)
  | res0 i | res1 i | res2 i =>
    obtain ⟨hb, hw⟩ := hw
    exact reads (State.resultWord_of_idle _ i hb) (hw.trans (slotWord_toNat _ _).symm)
  | blkval i =>
    obtain ⟨hp, hlt, b, hb, hw⟩ := hw
    exact reads (congrArg (Option.map _) (State.viewedBlock_eq hp hlt hb))
      (hw.trans (slotWord_toNat _ _).symm)
  | dig k => exact reads rfl (hw.trans (s.dig.readWord_toNat k).symm)

/-! ### The layout of `STATUS` (R27, R231, R232) -/

theorem Status.extractLsb'_toWord_err (t : Status) : t.toWord.extractLsb' 4 4 = t.err.code := by
  refine BitVec.eq_of_getLsbD_eq fun k hk => ?_
  simp only [Status.toWord, BitVec.getLsbD_append, BitVec.getLsbD_extractLsb']
  simp [hk]

theorem Status.extractLsb'_toWord_sub (t : Status) : t.toWord.extractLsb' 8 4 = t.sub.code := by
  refine BitVec.eq_of_getLsbD_eq fun k hk => ?_
  simp only [Status.toWord, BitVec.getLsbD_append, BitVec.getLsbD_extractLsb']
  simp [hk]

theorem Status.getLsbD_toWord_reserved (t : Status) {k : Nat} (hk : 15 ≤ k) :
    t.toWord.getLsbD k = false := by
  obtain ⟨j, rfl⟩ := Nat.exists_eq_add_of_le' hk
  simp only [Status.toWord, BitVec.getLsbD_append]
  simp

/-- Settles O48: each bit of the word is a bit of one of the fields it is put together from. -/
theorem statusLayout : Obligations.StatusLayout := by
  refine ⟨fun t => ?_, by decide, by decide⟩
  refine ⟨?busy, ?done, ?prime, ?gap, t.extractLsb'_toWord_err, t.extractLsb'_toWord_sub, ?sx, ?sy,
    ?ovr, fun k hk => t.getLsbD_toWord_reserved hk⟩
  all_goals
    simp only [Status.toWord, BitVec.getLsbD_append]
    simp

/-! ### The idle engine, and the writes that act at any time (R42; R27, R34, R38) -/

section
variable {s : State}

theorem engineStep_of_idle (hb : s.status.busy = false) : engineStep s = .next s := by
  simp only [engineStep, hb, Bool.and_false, Bool.false_eq_true, if_false]

theorem and_not_eq_ite (a b : Bool) : (a && !b) = if b then false else a := by
  cases b <;> simp

/-- A write of `STATUS` clears by ones (R27). -/
theorem Status.writeClear_eq (t : Status) (v : Word) :
    t.writeClear v = { t with
      done := if v.getLsbD 1 then false else t.done
      ovr := if v.getLsbD 14 then false else t.ovr } := by
  simp only [Status.writeClear, and_not_eq_ite]

/-- A write of `CTRL` without `SRST` sets `IE` (R34). -/
theorem writeCtrl_of_noReset {v : Word} (hv : v.getLsbD 1 = false) :
    writeCtrl v s = { s with ie := v.getLsbD 0 } := by
  simp only [writeCtrl, hv, Bool.false_eq_true, if_false]

end

/-- Settles O7: the engine of an idle block has no step. -/
theorem idleEngineHasNoStep : Obligations.IdleEngineHasNoStep := by
  intro s hb
  refine ⟨fun hi => ?_, fun l hi => ?_⟩
  · rw [step_of_nil hi, engineStep_of_idle hb]
  · exact (step_of_engine hi).trans (engineStep_of_idle (s := s.withInputs l) hb)

/-- Settles O52: each of the three writes makes its one update, whether or not a command runs. -/
theorem writesThatActAlways : Obligations.WritesThatActAlways := by
  intro s off v l hr hi
  refine ⟨fun hl => ?_, fun hl hv => ?_, fun hl => ?_⟩ <;> rw [step_of_write hr hi hl]
  · simp only [writeLoc, Status.writeClear_eq]
    rfl
  · simp only [writeLoc, writeCtrl_of_noReset hv]
    rfl
  · rw [← BitVec.setWidth_eq_extractLsb' (by decide)]
    rfl

/-! ### The state after hard reset (R43, R260) -/

/-- Settles O57: the values are those `State.reset` is written with, and its engine is idle. -/
theorem resetValues : Obligations.ResetValues :=
  ⟨rfl, by decide, rfl, rfl, rfl, rfl, rfl, (idleEngineHasNoStep State.reset rfl).1 rfl⟩

/-- Settles O59: every register is 0, every buffer empty, and no command runs. -/
theorem resetHasInv : Obligations.ResetHasInv where
  params := by decide
  opaFits := Nat.two_pow_pos _
  opbFits := Nat.two_pow_pos _
  opcFits := Nat.two_pow_pos _
  res0Fits := Nat.two_pow_pos _
  res1Fits := Nat.two_pow_pos _
  res2Fits := Nat.two_pow_pos _
  digWf := rfl
  digBound := nofun
  blkLength := rfl
  nblkBound := Nat.zero_le _
  blkFits := nofun
  busyDone := nofun
  busyFlags := nofun
  subCause := iff_of_true rfl nofun
  failure := fun he => absurd rfl he
  signX := nofun
  signY := nofun
  rngFits := nofun
  drawn := fun hd => absurd rfl hd
  inReset := nofun

end Sys2Proof.Machine
end

section
/-! PROOFS. The family of spec/20_memory.md: the offset map of the window (R64, R65, R69 to R71), what a read leaves unchanged (R67, R68), what a write replaces (R70, R71), what of it is ignored or dropped (R66, R72), the words the engine takes (R81), and the turn after an acceptance (R78, R90). -/

namespace Sys2Proof.Machine

/-! ### The words the engine takes (R81, R276) -/

section
variable {s t : State}

/-- `rng_ready` of a running MRPRIME (R81). -/
theorem State.rngReady_of_mrprime {sa : Bool} {rounds : Nat} (hb : s.status.busy = true)
    (hd : decode s.cmd = .instr (.mrprime sa rounds)) :
    s.rngReady =
      ((mrDeterministic (s.operandA sa)).isNone && decide (s.mrDrawn < rounds)) := by
  simp only [State.rngReady, hb, hd, Bool.true_and]

/-- A command that asks for no word needs none. -/
theorem State.wordsSuffice_of_not_rngReady {i : Instr} (hb : s.status.busy = true)
    (hd : decode s.cmd = .instr i) (hready : s.rngReady = false) : s.wordsSuffice i = true := by
  cases i with
  | mrprime sa rounds =>
    rw [State.rngReady_of_mrprime hb hd] at hready
    cases hdet : mrDeterministic (s.operandA sa) with
    | some v => simp [State.wordsSuffice, hdet]
    | none =>
      have hle : rounds ≤ s.mrDrawn := by simpa [hdet] using hready
      simp [State.wordsSuffice, hdet, Nat.sub_eq_zero_of_le hle]
  | _ => rfl

/-- MRPRIME draws no word for a deterministic answer, and none without a round left (R171). -/
theorem mrprime_draws_eq_zero {n : Int} {rounds : Nat} (ws : List Nat)
    (h : (mrDeterministic n).isSome = true ∨ rounds = 0) : (mrprime n rounds ws).draws = 0 := by
  rcases h with hdet | rfl
  · obtain ⟨v, hv⟩ := Option.isSome_iff_exists.1 hdet
    simp only [mrprime, hv]
  · exact Nat.le_zero.1 (mrprime_draws_le n 0 ws)

/-- MRPRIME takes from the stream the words its rounds draw. -/
theorem exec_mrprime_takes {sa : Bool} {rounds : Nat} (h : exec (.mrprime sa rounds) s = .next t) :
    t.rpos = s.rpos + (mrprime (s.operandA sa) (rounds - s.mrDrawn) s.rng).draws ∧
    t.rng = s.rng.drop (mrprime (s.operandA sa) (rounds - s.mrDrawn) s.rng).draws := by
  simp only [exec, execMrprime] at h
  split at h
  all_goals
    next hm =>
      cases h
      rw [hm]
      exact ⟨rfl, rfl⟩

/-- While `rng_ready` is down, a command takes no word. -/
theorem exec_keeps_stream_of_not_rngReady {i : Instr} (hb : s.status.busy = true)
    (hd : decode s.cmd = .instr i) (hready : s.rngReady = false) (h : exec i s = .next t) :
    t.rpos = s.rpos ∧ t.rng = s.rng := by
  by_cases hi : ∃ sa rounds, i = .mrprime sa rounds
  · obtain ⟨sa, rounds, rfl⟩ := hi
    rw [State.rngReady_of_mrprime hb hd] at hready
    have hnone : (mrDeterministic (s.operandA sa)).isSome = true ∨ rounds - s.mrDrawn = 0 := by
      simpa [Option.isSome_iff_ne_none, Nat.sub_eq_zero_iff_le, or_iff_not_imp_left] using hready
    simpa [mrprime_draws_eq_zero s.rng hnone] using exec_mrprime_takes h
  · obtain ⟨-, hrng, hpos⟩ := exec_keeps_stream h fun sa rounds he => hi ⟨sa, rounds, he⟩
    exact ⟨hpos, hrng⟩

/-- While `rng_ready` is down, the engine takes no word. -/
theorem engineStep_keeps_stream_of_not_rngReady (hready : s.rngReady = false)
    (h : engineStep s = .next t) : t.rpos = s.rpos ∧ t.rng = s.rng := by
  rcases engineStep_cases h with rfl | ⟨-, hb, i, hd, hx⟩ | ⟨-, -, -, -, rfl⟩
  · exact ⟨rfl, rfl⟩
  · exact exec_keeps_stream_of_not_rngReady hb hd hready hx
  · exact ⟨rfl, rfl⟩

/-- While `rng_ready` is down, the engine completes the running command, legal or not. -/
theorem engineStep_completes_of_not_rngReady (hr : s.rstN = true) (hb : s.status.busy = true)
    (hready : s.rngReady = false) (h : engineStep s = .next t) : t.status.busy = false := by
  cases hd : decode s.cmd with
  | instr i =>
    rw [engineStep_of_instr hr hb hd] at h
    obtain ⟨u, hu, hbusy, -⟩ :=
      exec_completes (State.wordsSuffice_of_not_rngReady hb hd hready)
    cases hu.symm.trans h
    exact hbusy
  | illegal why =>
    rw [engineStep_of_illegal hr hb hd] at h
    cases h
    rfl

end

/-- Settles O30: with `rng_ready` up the words come from the front of the stream; with it down the
running command needs none, so it takes none and completes. -/
theorem wordsTakenOnlyWhenReady : Obligations.WordsTakenOnlyWhenReady := by
  intro s t h
  refine ⟨?_, fun hr hb hready => engineStep_completes_of_not_rngReady hr hb hready h⟩
  cases hready : s.rngReady with
  | true =>
    obtain ⟨k, hpos, hrng⟩ := engineStep_takes h
    exact ⟨k, hpos, hrng, fun _ => rfl⟩
  | false =>
    obtain ⟨hpos, hrng⟩ := engineStep_keeps_stream_of_not_rngReady hready h
    exact ⟨0, hpos, hrng, fun h0 => absurd rfl h0⟩

/-! ### The offset map (R69 to R71) -/

section
variable {p : Params}

theorem controlLoc_offset {n : Nat} {l : Loc} (h : controlLoc n = some l) : l.offset = 4 * n := by
  unfold controlLoc at h
  split at h <;> cases h <;> rfl

/-- A slot's word stands at four times its index from the slot's base (R70). -/
theorem slotLoc_offset {base off : Nat} {mk : Nat → Loc} {l : Loc}
    (hmk : ∀ i, (mk i).offset = base + 4 * i) (hb : base ≤ off) (hal : 4 ∣ off - base)
    (h : slotLoc p base mk off = some l) : l.offset = off := by
  unfold slotLoc at h
  split at h
  next => cases h; rw [hmk]; omega
  next => cases h

/-- An aligned offset reaches a location at that very offset. -/
theorem locate_offset {off : Nat} (hal : off % 4 = 0) {l : Loc} (h : locate p off = some l) :
    l.offset = off := by
  unfold locate at h
  split_ifs at h
  · rw [controlLoc_offset h]; omega
  iterate 7 · exact slotLoc_offset (fun _ => rfl) (by omega) (by omega) h
  · cases h
    simp only [Loc.offset]
    omega

/-- An access reaches only the location that stands at its offset. -/
theorem accessLoc_offset {off : BitVec 13} {l : Loc} (h : accessLoc p off = some l) :
    off.toNat = l.offset := by
  unfold accessLoc at h
  split at h
  next hal => exact (locate_offset hal h).symm
  next => cases h

theorem Loc.offset_mod_four (l : Loc) : l.offset % 4 = 0 := by
  cases l <;> simp only [Loc.offset] <;> omega

/-- The words of a slot that the block has are mapped (R70). -/
theorem slotLoc_word (base : Nat) (mk : Nat → Loc) {i : Nat} (hi : i < p.nw) :
    slotLoc p base mk (base + 4 * i) = some (mk i) := by
  have hidx : (base + 4 * i - base) / 4 = i := by omega
  rw [slotLoc, if_pos (by omega), hidx]

/-- A slot of at most 4096 bits fits its 512 bytes (R5, R69). -/
theorem Params.nw_le_of_legal (hp : p.Legal) : p.nw ≤ 128 := by
  obtain ⟨-, -, hw, -⟩ := hp
  unfold Params.nw
  omega

/-- Every location the block has is reached at its offset. -/
theorem locate_of_present (hp : p.Legal) {l : Loc} (hl : l.present p) :
    locate p l.offset = some l := by
  have hnw := Params.nw_le_of_legal hp
  cases l with
  | opa i | opb i | opc i | res0 i | res1 i | res2 i | blkval i =>
    have hi : i < p.nw := hl
    simp (disch := omega) only [Loc.offset, locate, if_neg, if_pos, slotLoc_word _ _ hi]
  | dig k =>
    have hk : k < p.lmax / 4 := hl
    have hidx : (0x1000 + 4 * k - 0x1000) / 4 = k := by omega
    simp (disch := omega) only [Loc.offset, locate, if_neg, if_pos, hidx]
  | _ => rfl

end

/-- Settles O43: an access reaches only a location the block has, at its own offset; and each such
location is reached there. -/
theorem windowMap : Obligations.WindowMap := by
  intro p off l hp
  refine ⟨fun h => ⟨accessLoc_offset h, accessLoc_present hp h⟩, fun ⟨hoff, hl⟩ => ?_⟩
  rw [accessLoc, hoff, if_pos l.offset_mod_four, locate_of_present hp hl]

/-! ### Reads, and accesses in error (R67, R68, R39) -/

section
variable {s : State}

/-- Out of reset a write is answered, whatever its strobes. -/
theorem step_of_busWrite {off : BitVec 13} {strobes : BitVec 4} {v : Word} {l : List Input}
    (hr : s.rstN = true) (hi : s.inputs = .write off strobes v :: l) :
    step s = .next (busWrite off strobes v (s.withInputs l)) := by
  simp [step, hi, inputStep, hostStep, hr]

/-- A read that reaches nothing is answered `ERROR` with data 0 (R67). -/
theorem busRead_of_unmapped {off : BitVec 13} (hl : accessLoc s.params off = none) :
    busRead off s = s.reply (.read .error 0) := by
  simp only [busRead, hl]

/-- A write that reaches nothing, or lacks a strobe, is answered `ERROR` (R63, R67). -/
theorem busWrite_of_error {off : BitVec 13} {strobes : BitVec 4} (v : Word)
    (h : accessLoc s.params off = none ∨ strobes ≠ 0xF) :
    busWrite off strobes v s = s.reply (.write .error) := by
  rcases busWrite_cases off strobes v s with hs | ⟨l, hl, hstr, -⟩
  · exact hs
  · simp [hl, hstr] at h

/-- The entry's count in `BLKCNT` has 16 bits (R25, R39). -/
theorem readLoc_blkcnt_lt {w : Word} (h : readLoc .blkcnt s = some w) : w.toNat < 2 ^ 16 := by
  obtain ⟨b, -, rfl⟩ := Option.map_eq_some_iff.1 h
  rw [toNat_setWidth_half]
  exact b.cnt.isLt

/-- The reply to a read that reaches a location: `OKAY`, and from `BLKCNT` 16 bits (R68, U21). -/
theorem busRead_of_mapped {off : BitVec 13} {l : Loc} (hl : accessLoc s.params off = some l) :
    ∃ d n, busRead off s = { s with bus := .read .okay d, freeCtr := n } ∧
      (l = .blkcnt → d.toNat < 2 ^ 16) := by
  cases hw : readLoc l s with
  | some w =>
    refine ⟨w, s.freeCtr, busRead_of_readLoc hl hw, ?_⟩
    rintro rfl
    exact readLoc_blkcnt_lt hw
  | none =>
    refine ⟨_, _, busRead_of_unspecified hl hw, ?_⟩
    rintro rfl
    exact unspecifiedData_blkcnt_lt _

end

/-- Settles O46: an unmapped offset is answered `ERROR`, and a mapped one `OKAY`, with the location's
data or a free value. -/
theorem readsChangeNothing : Obligations.ReadsChangeNothing := by
  intro s off l hr hi
  rw [step_of_read hr hi]
  cases hl : accessLoc s.params off with
  | none =>
    rw [busRead_of_unmapped (s := s.withInputs l) hl]
    exact ⟨.error, 0, s.freeCtr, rfl, by decide, nofun⟩
  | some loc =>
    obtain ⟨d, n, hread, hblk⟩ := busRead_of_mapped (s := s.withInputs l) hl
    rw [hread]
    exact ⟨.okay, d, n, rfl, by simp, fun h => hblk (Option.some.inj h)⟩

/-- Settles O44: a read and a write in error are their `ERROR` replies and nothing else. -/
theorem errorReplyChangesNothing : Obligations.ErrorReplyChangesNothing := by
  intro s off strobes v l hr
  refine ⟨fun hi hl => ?_, fun hi h => ?_⟩
  · rw [step_of_read hr hi, busRead_of_unmapped (s := s.withInputs l) hl]
    rfl
  · rw [step_of_busWrite hr hi, busWrite_of_error (s := s.withInputs l) v h]
    rfl

/-! ### Writes (R66, R70 to R72) -/

section
variable {s : State}

/-- Idle, the block carries a write out. -/
theorem State.unlessBusy_of_idle (u : State) (hb : s.status.busy = false) : s.unlessBusy u = u :=
  if_neg (ne_true_of_eq_false hb)

/-- The step of a full-word write that acts unless a command runs, when none does. -/
theorem step_of_idle_write {off : BitVec 13} {v : Word} {loc : Loc} {l : List Input} {u : State}
    (hr : s.rstN = true) (hb : s.status.busy = false) (hi : s.inputs = .write off 0xF v :: l)
    (hl : accessLoc s.params off = some loc)
    (hw : writeLoc loc v (s.withInputs l) = (s.withInputs l).unlessBusy u) :
    step s = .next (u.reply (.write .okay)) := by
  rw [step_of_write hr hi hl, hw, State.unlessBusy_of_idle (s := s.withInputs l) u hb]

/-- A write to a read-only register changes nothing (R66). -/
theorem writeLoc_of_readOnly {l : Loc} (v : Word) (s : State) (hl : l.readOnly = true) :
    writeLoc l v s = s := by
  cases l with
  | cmd | status | ctrl | blksel | opa | opb | opc | dig => cases hl
  | _ => rfl

/-- A legal width is that of the slot's words (R5, R7). -/
theorem Params.width_eq_of_legal {p : Params} (hp : p.Legal) : p.width = 32 * p.nw := by
  obtain ⟨hmod, -⟩ := hp
  unfold Params.nw
  omega

/-- What a written operand holds (R70): the word in its place, the other bits as before, and it stays
a `W`-bit number. -/
theorem putSlotWord_spec {p : Params} (hp : p.Legal) {i : Nat} (hi : i < p.nw) (x : Nat)
    (v : Word) :
    (∀ b, (putSlotWord x i v).testBit b =
      if b / 32 = i then v.getLsbD (b % 32) else x.testBit b) ∧
    (x < 2 ^ p.width → putSlotWord x i v < 2 ^ p.width) := by
  refine ⟨testBit_putSlotWord x i v, ?_⟩
  rw [Params.width_eq_of_legal hp]
  exact putSlotWord_lt hi

/-- Byte `j` of a word as a number: bits `[8*j+7 : 8*j]` (R71). -/
theorem wordByte_toNat (v : Word) (j : Nat) :
    (wordByte v j).toNat = v.toNat / 2 ^ (8 * j) % 2 ^ 8 := by
  rw [wordByte, BitVec.extractLsb'_toNat, Nat.shiftRight_eq_div_pow]

end

/-- Settles O49: the step is the replacement of the slot's word in the one register the offset
reaches. -/
theorem operandWordWrite : Obligations.OperandWordWrite := by
  intro s off v l i hp hr hb hi
  refine ⟨fun hl => ?_, fun hl => ?_, fun hl => ?_⟩ <;>
  exact ⟨_, step_of_idle_write hr hb hi hl rfl,
    putSlotWord_spec hp (accessLoc_present hp hl) _ v⟩

/-- Settles O50: the step is the replacement of the word's four bytes in the digit buffer. -/
theorem digitWordWrite : Obligations.DigitWordWrite := by
  intro s off v l t hwf hr hb hi hl
  refine ⟨s.dig.writeWord t v, step_of_idle_write hr hb hi hl rfl, Memory.writeWord_wf hwf t v,
    fun k hk => ?_, fun k hk => ?_⟩
  · rw [Memory.readByte_writeWord hwf, if_pos hk, wordByte_toNat]
  · rw [Memory.readByte_writeWord hwf, if_neg hk]

/-- Settles O45: the write is answered, and that is all. -/
theorem readOnlyWritesIgnored : Obligations.ReadOnlyWritesIgnored := by
  intro s off v loc l hr hi hl hro
  rw [step_of_write hr hi hl, writeLoc_of_readOnly v _ hro]
  rfl

/-- Settles O51: the write is answered and flagged, and that is all. -/
theorem busyWritesAreDropped : Obligations.BusyWritesAreDropped := by
  intro s off v loc l hr hb hi hl hheld
  rw [step_of_write hr hi hl, writeLoc_of_held (s := s.withInputs l) v hheld hb]
  rfl

/-! ### The turn after an acceptance (R78, R90, R235) -/

/-- With the engine's turn put first, the step is the engine's. -/
theorem step_engineFirst (s : State) :
    step (s.withInputs (engineFirst s.inputs)) = engineStep s := by
  cases hi : s.inputs with
  | nil =>
    rw [engineFirst, step_of_nil rfl, ← hi, State.withInputs_self]
  | cons e l =>
    rw [engineFirst, step_of_engine rfl, State.withInputs_withInputs, ← hi, State.withInputs_self]

theorem decode_of_decodeTableWord {nbits w : Nat} {i : Instr}
    (h : decodeTableWord nbits w = some i) : decode (tableWord nbits w) = .instr i := by
  unfold decodeTableWord at h
  split at h
  next hd => cases h; exact hd
  next => cases h

/-- Settles O6: the engine has the turn, out of reset and busy with the word. -/
theorem fetchWordRunsNext : Obligations.FetchWordRunsNext := by
  intro s nbits w i h
  exact (step_engineFirst ((s.accept (tableWord nbits w)).releaseReset)).trans
    (engineStep_of_instr rfl rfl (decode_of_decodeTableWord h))

end Sys2Proof.Machine
end

section
/-! PROOFS. The family of spec/30_encoding.md: the encoder and the decoder undo each other (R91 to R94), the decoder is the opcode map (R93, R94), the words the spec writes out (R95, R100), and a command word written through the window (R99). -/

namespace Sys2Proof

/-! ### A word is its fields (R91) -/

theorem fields_commandWord (opc : Byte) (sa sb sc : Bool) (imm : Half) :
    fieldOpc (commandWord opc sa sb sc imm) = opc ∧
    fieldSa (commandWord opc sa sb sc imm) = sa ∧
    fieldSb (commandWord opc sa sb sc imm) = sb ∧
    fieldSc (commandWord opc sa sb sc imm) = sc ∧
    fieldRsv (commandWord opc sa sb sc imm) = 0 ∧
    fieldImm (commandWord opc sa sb sc imm) = imm :=
  ⟨fieldOpc_commandWord .., fieldSa_commandWord .., fieldSb_commandWord ..,
    fieldSc_commandWord .., fieldRsv_commandWord .., fieldImm_commandWord ..⟩

theorem ofBool_getLsbD (c : Word) (k : Nat) : BitVec.ofBool (c.getLsbD k) = c.extractLsb' k 1 := by
  refine BitVec.eq_of_getLsbD_eq fun j hj => ?_
  obtain rfl : j = 0 := by omega
  simp

/-- A word is its six fields side by side, most significant first. -/
theorem append_fields (c : Word) :
    fieldImm c ++ fieldRsv c ++ BitVec.ofBool (fieldSc c) ++ BitVec.ofBool (fieldSb c) ++
      BitVec.ofBool (fieldSa c) ++ fieldOpc c = c := by
  simp only [fieldImm, fieldRsv, fieldSc, fieldSb, fieldSa, fieldOpc, ofBool_getLsbD,
    BitVec.extractLsb'_append_extractLsb'_eq_extractLsb', BitVec.extractLsb'_eq_self]

/-- A word without reserved bits is made of its other fields. -/
theorem commandWord_fields {c : Word} (hrsv : fieldRsv c = 0) :
    commandWord (fieldOpc c) (fieldSa c) (fieldSb c) (fieldSc c) (fieldImm c) = c := by
  rw [commandWord, ← hrsv, append_fields]

theorem word_eq_iff_fields {c c' : Word} :
    c = c' ↔ fieldOpc c = fieldOpc c' ∧ fieldSa c = fieldSa c' ∧ fieldSb c = fieldSb c' ∧
      fieldSc c = fieldSc c' ∧ fieldRsv c = fieldRsv c' ∧ fieldImm c = fieldImm c' := by
  refine ⟨fun h => h ▸ ⟨rfl, rfl, rfl, rfl, rfl, rfl⟩, fun ⟨hopc, hsa, hsb, hsc, hrsv, himm⟩ => ?_⟩
  rw [← append_fields c, ← append_fields c', hopc, hsa, hsb, hsc, hrsv, himm]

/-! ### The encoder and the decoder (R92, R93) -/

/-- Settles O2: each field of the encoded word reads back what the command put there, and a count
below `2^16` is its immediate. -/
theorem decodeOfEncode : Obligations.DecodeOfEncode := by
  intro i hwf
  have hcount {n : Nat} (h : fitsImm16 n = true) : (BitVec.ofNat 16 n).toNat = n :=
    Nat.mod_eq_of_lt (of_decide_eq_true h)
  cases i with
  | xgcd | modinv | modexp => simp [decode, encode, fields_commandWord]
  | mrprime | pack => simp [decode, encode, fields_commandWord, hcount hwf]

/-- What the decoder has tested of a word it answers a command for. -/
theorem decode_cases {c : Word} {i : Instr} (h : decode c = .instr i) :
    fieldRsv c = 0 ∧
    ((i = .xgcd (fieldSa c) (fieldSb c) ∧
        fieldOpc c = 0x01 ∧ fieldSc c = false ∧ fieldImm c = 0) ∨
     (i = .modinv (fieldSa c) (fieldSc c) ∧
        fieldOpc c = 0x02 ∧ fieldSb c = false ∧ fieldImm c = 0) ∨
     (i = .modexp (fieldSa c) (fieldSb c) (fieldSc c) ∧ fieldOpc c = 0x03 ∧ fieldImm c = 0) ∨
     (i = .mrprime (fieldSa c) (fieldImm c).toNat ∧
        fieldOpc c = 0x04 ∧ fieldSb c = false ∧ fieldSc c = false) ∨
     (i = .pack (fieldSc c) (fieldImm c).toNat ∧
        fieldOpc c = 0x05 ∧ fieldSa c = false ∧ fieldSb c = false)) := by
  simp only [decode, ne_eq, ite_not, Bool.or_eq_true] at h
  split_ifs at h with hrsv hopc hsc himm hopc hsb himm hopc himm hopc hsigns hopc hsigns
  all_goals
    cases h
    refine ⟨hrsv, ?_⟩
  · exact .inl ⟨rfl, hopc, eq_false_of_ne_true hsc, himm⟩
  · exact .inr (.inl ⟨rfl, hopc, eq_false_of_ne_true hsb, himm⟩)
  · exact .inr (.inr (.inl ⟨rfl, hopc, himm⟩))
  · exact .inr (.inr (.inr (.inl ⟨rfl, hopc, by simpa using hsigns⟩)))
  · exact .inr (.inr (.inr (.inr ⟨rfl, hopc, by simpa using hsigns⟩)))

/-- Settles O3: of a legal word, `RSV` and every field the command does not hold are 0. -/
theorem encodeOfDecode : Obligations.EncodeOfDecode := by
  intro c i h
  have hfit (x : Half) : fitsImm16 x.toNat = true := decide_eq_true x.isLt
  obtain ⟨hrsv, ⟨rfl, hopc, hsc, himm⟩ | ⟨rfl, hopc, hsb, himm⟩ | ⟨rfl, hopc, himm⟩ |
    ⟨rfl, hopc, hsb, hsc⟩ | ⟨rfl, hopc, hsa, hsb⟩⟩ := decode_cases h
  · exact ⟨rfl, by simpa [encode, hopc, hsc, himm] using commandWord_fields hrsv⟩
  · exact ⟨rfl, by simpa [encode, hopc, hsb, himm] using commandWord_fields hrsv⟩
  · exact ⟨rfl, by simpa [encode, hopc, himm] using commandWord_fields hrsv⟩
  · exact ⟨hfit _, by simpa [encode, hopc, hsb, hsc] using commandWord_fields hrsv⟩
  · exact ⟨hfit _, by simpa [encode, hopc, hsa, hsb] using commandWord_fields hrsv⟩

/-! ### The opcode map (R93, R94) -/

/-- The mask of a row that fixes `OPC` and `RSV`, the marked signs and, if marked, `IMM16`. -/
def rowMask (sa sb sc imm : Bool) : Word :=
  commandWord 0xFF sa sb sc (if imm then BitVec.allOnes 16 else 0) ||| 0xF800

/-- A row of the opcode map: `OPC` is `opc`, and `RSV` and the marked fields are 0. -/
def commandRow (mnemonic : String) (opc : Byte) (sa sb sc imm : Bool) : OpcodeRow :=
  ⟨mnemonic, commandWord opc false false false 0, rowMask sa sb sc imm⟩

/-- The masks of R94 mark the signs a command does not read, and `IMM16` where it has no
immediate. -/
theorem opcodeTable_eq : opcodeTable =
    [commandRow "XGCD" 0x01 false false true true, commandRow "MODINV" 0x02 false true false true,
     commandRow "MODEXP" 0x03 false false false true,
     commandRow "MRPRIME" 0x04 false true true false,
     commandRow "PACK" 0x05 true true false false] := by
  decide

theorem fields_and (c c' : Word) :
    fieldOpc (c &&& c') = fieldOpc c &&& fieldOpc c' ∧
    fieldSa (c &&& c') = (fieldSa c && fieldSa c') ∧
    fieldSb (c &&& c') = (fieldSb c && fieldSb c') ∧
    fieldSc (c &&& c') = (fieldSc c && fieldSc c') ∧
    fieldRsv (c &&& c') = fieldRsv c &&& fieldRsv c' ∧
    fieldImm (c &&& c') = fieldImm c &&& fieldImm c' :=
  ⟨BitVec.extractLsb'_and, BitVec.getLsbD_and .., BitVec.getLsbD_and .., BitVec.getLsbD_and ..,
    BitVec.extractLsb'_and, BitVec.extractLsb'_and⟩

theorem fields_rowMask : ∀ sa sb sc imm : Bool,
    fieldOpc (rowMask sa sb sc imm) = BitVec.allOnes 8 ∧
    fieldSa (rowMask sa sb sc imm) = sa ∧ fieldSb (rowMask sa sb sc imm) = sb ∧
    fieldSc (rowMask sa sb sc imm) = sc ∧ fieldRsv (rowMask sa sb sc imm) = BitVec.allOnes 5 ∧
    fieldImm (rowMask sa sb sc imm) = if imm then BitVec.allOnes 16 else 0 := by
  decide

theorem and_immMask_eq_zero_iff (x : Half) (imm : Bool) :
    x &&& (if imm then BitVec.allOnes 16 else 0) = 0 ↔ (imm = true → x = 0) := by
  cases imm with
  | true => simp only [if_true, BitVec.and_allOnes, forall_const]
  | false => simp

/-- The words of a row, by their fields. -/
theorem commandRow_admits_iff {mnemonic : String} {opc : Byte} {sa sb sc imm : Bool} {c : Word} :
    (commandRow mnemonic opc sa sb sc imm).admits c = true ↔
      fieldOpc c = opc ∧ (sa = true → fieldSa c = false) ∧ (sb = true → fieldSb c = false) ∧
      (sc = true → fieldSc c = false) ∧ fieldRsv c = 0 ∧ (imm = true → fieldImm c = 0) := by
  rw [OpcodeRow.admits, beq_iff_eq, word_eq_iff_fields]
  simp only [commandRow, fields_and, fields_rowMask, fields_commandWord, BitVec.and_allOnes,
    Bool.and_comm (fieldSa c), Bool.and_comm (fieldSb c), Bool.and_comm (fieldSc c),
    Bool.and_eq_false_imp, and_immMask_eq_zero_iff]

theorem commandRow_mnemonic (mnemonic : String) (opc : Byte) (sa sb sc imm : Bool) :
    (commandRow mnemonic opc sa sb sc imm).mnemonic = mnemonic := rfl

/-- A command's own word is of the row with the command's mnemonic: no other row has its opcode, and
of what the mask marks the encoder sets nothing. -/
theorem exists_row_admits_encode (i : Instr) :
    ∃ r ∈ opcodeTable, r.mnemonic = i.mnemonic ∧ r.admits (encode i) = true := by
  rw [opcodeTable_eq]
  cases i <;>
  simp [commandRow_mnemonic, commandRow_admits_iff, Instr.mnemonic, encode, fields_commandWord]

/-- A word of a row is decoded to that row's command, with the fields the mask leaves free. -/
theorem decode_of_admits {c : Word} {r : OpcodeRow} (hr : r ∈ opcodeTable)
    (h : r.admits c = true) : ∃ i, decode c = .instr i ∧ i.mnemonic = r.mnemonic := by
  simp only [opcodeTable_eq, List.mem_cons, List.not_mem_nil, or_false] at hr
  rcases hr with rfl | rfl | rfl | rfl | rfl <;>
  obtain ⟨hopc, hsa, hsb, hsc, hrsv, himm⟩ := commandRow_admits_iff.1 h
  · exact ⟨.xgcd (fieldSa c) (fieldSb c), by simp [decode, hopc, hrsv, hsc, himm], rfl⟩
  · exact ⟨.modinv (fieldSa c) (fieldSc c), by simp [decode, hopc, hrsv, hsb, himm], rfl⟩
  · exact ⟨.modexp (fieldSa c) (fieldSb c) (fieldSc c), by simp [decode, hopc, hrsv, himm], rfl⟩
  · exact ⟨.mrprime (fieldSa c) (fieldImm c).toNat, by simp [decode, hopc, hrsv, hsb, hsc], rfl⟩
  · exact ⟨.pack (fieldSc c) (fieldImm c).toNat, by simp [decode, hopc, hrsv, hsa, hsb], rfl⟩

theorem eq_of_mnemonic_eq :
    ∀ r ∈ opcodeTable, ∀ r' ∈ opcodeTable, r.mnemonic = r'.mnemonic → r = r' := by
  decide

/-- Settles O4: a legal word is its command's encoding, which is of the command's row; and a word of
two rows would decode to two mnemonics. -/
theorem decodeAgreesWithOpcodeMap : Obligations.DecodeAgreesWithOpcodeMap := by
  refine ⟨fun c i h => ?_, fun c r => decode_of_admits, fun c r r' hr hr' h h' => ?_⟩
  · obtain ⟨-, rfl⟩ := encodeOfDecode c i h
    exact exists_row_admits_encode i
  · obtain ⟨i, hd, hm⟩ := decode_of_admits hr h
    obtain ⟨i', hd', hm'⟩ := decode_of_admits hr' h'
    cases hd.symm.trans hd'
    exact eq_of_mnemonic_eq r hr r' hr' (hm.symm.trans hm')

/-! ### The words the spec writes out (R95, R100) -/

/-- Settles O1: ten closed words, decoded. -/
theorem writtenWordsDecode : Obligations.WrittenWordsDecode := by
  unfold Obligations.WrittenWordsDecode
  decide

end Sys2Proof

namespace Sys2Proof.Machine

/-! ### A command word through the window (R99) -/

/-- Offset `0x000` is `CMD`, whatever the parameters (R69). -/
theorem accessLoc_cmd (p : Params) : accessLoc p 0x000 = some .cmd := rfl

/-- A step that answers a next state is the first of a run. -/
theorem core_run_succ {s t : State} (k : Nat) (hs : step s = .next t) :
    core.run (k + 1) s = core.run k t := by
  have hcore : core.step s = .next t := hs
  simp only [Host.Core.run, hcore]

theorem core_run_one (s : State) : core.run 1 s = step s := by
  change core.run 1 s = core.step s
  cases h : core.step s <;> simp only [Host.Core.run, h]

/-- Idle, a full-word write to `CMD` is the word's acceptance and its `OKAY` (R235). -/
theorem step_of_idle_write_cmd {s : State} {c : Word} {l : List Input} (hr : s.rstN = true)
    (hb : s.status.busy = false) (hi : s.inputs = .write 0x000 0xF c :: l) :
    step s = .next (((s.accept c).reply (.write .okay)).withInputs l) :=
  step_of_idle_write hr hb hi (accessLoc_cmd s.params) rfl

/-- Settles O11: the first step is the acceptance; after it the host waits, and the engine, busy with
the word, has the turn. -/
theorem commandThroughWindow : Obligations.CommandThroughWindow := by
  intro s c i l hr hb hd hi
  rw [core_run_succ 1 (step_of_idle_write_cmd hr hb hi), core_run_one]
  exact Eq.trans (step_of_wait rfl hr rfl) (engineStep_of_instr hr rfl hd)

end Sys2Proof.Machine
end

section
/-! PROOFS. The family of spec/40_xgcd.md: the loop of the engine (R117), the sign laws of R115, and the statements of R111 to R115 and R117. -/

namespace Sys2Proof.Machine

/-! ### The loop (R117) -/

/-- What the engine returns from its registers at the end of the loop (R117). -/
def XgcdRegs.result (w : XgcdRegs) : Nat × Int × Int :=
  (w.r0.natAbs, w.r0.sign * w.s0, w.r0.sign * w.t0)

theorem xgcdIterative_eq_result (a b : Int) :
    xgcdIterative a b =
      (xgcdLoop b.natAbs { r0 := a, r1 := b, s0 := 1, s1 := 0, t0 := 0, t1 := 1 }).result := rfl

/-- One pass of the loop (R117). -/
def XgcdRegs.next (w : XgcdRegs) : XgcdRegs :=
  { r0 := w.r1, r1 := w.r0 - w.r0.fdiv w.r1 * w.r1
    s0 := w.s1, s1 := w.s0 - w.r0.fdiv w.r1 * w.s1
    t0 := w.t1, t1 := w.t0 - w.r0.fdiv w.r1 * w.t1 }

theorem xgcdLoop_of_zero (f : Nat) {w : XgcdRegs} (h : w.r1 = 0) : xgcdLoop f w = w := by
  cases f with
  | zero => rfl
  | succ f => exact if_pos h

theorem xgcdLoop_succ_of_ne_zero (f : Nat) {w : XgcdRegs} (h : w.r1 ≠ 0) :
    xgcdLoop (f + 1) w = xgcdLoop f w.next := if_neg h

/-- From any registers, the loop returns the gcd of the pair `r`, and the pairs `s` and `t` combined
with the coefficients that R111 gives for `r`. -/
theorem result_xgcdLoop (f : Nat) (w : XgcdRegs) (hf : w.r1.natAbs ≤ f) :
    (xgcdLoop f w).result =
      ((xgcd w.r0 w.r1).1, (xgcd w.r0 w.r1).2.1 * w.s0 + (xgcd w.r0 w.r1).2.2 * w.s1,
        (xgcd w.r0 w.r1).2.1 * w.t0 + (xgcd w.r0 w.r1).2.2 * w.t1) := by
  induction f generalizing w with
  | zero =>
    have h : w.r1 = 0 := by omega
    simp [xgcdLoop_of_zero 0 h, h, XgcdRegs.result]
  | succ f ih =>
    by_cases h : w.r1 = 0
    · simp [xgcdLoop_of_zero (f + 1) h, h, XgcdRegs.result]
    · have hlt : w.next.r1.natAbs < w.r1.natAbs := natAbs_sub_fdiv_mul_lt w.r0 h
      rw [xgcdLoop_succ_of_ne_zero f h, ih w.next (by omega), xgcd_of_ne_zero w.r0 h]
      simp only [XgcdRegs.next, Prod.mk.injEq, true_and]
      constructor <;> ring

/-- Settles O17: from the starting pairs `(1, 0)` and `(0, 1)`, the combinations that the loop keeps
are the two coefficients. -/
theorem xgcdLoopIsRecursion : Obligations.XgcdLoopIsRecursion := by
  intro a b
  rw [xgcdIterative_eq_result, result_xgcdLoop b.natAbs _ le_rfl]
  simp

/-! ### The recursion and its laws (R111 to R115) -/

/-- Settles O13: the recursion without its fuel. -/
theorem xgcdRecursion : Obligations.XgcdRecursion := by
  refine ⟨xgcd_zero, fun a b g x1 y1 hb h => ?_⟩
  rw [xgcd_of_ne_zero a hb, h]

/-- Settles O14: a gcd is 0 only of two zeros. -/
theorem xgcdIsGcdAndBezout : Obligations.XgcdIsGcdAndBezout := by
  intro a b
  rw [xgcd_fst_eq_gcd]
  exact ⟨rfl, Int.gcd_eq_zero_iff, xgcd_bezout a b⟩

/-- Settles O15: the sharp bounds, the loose ones that follow, and the fit that follows from these. -/
theorem xgcdCoefficientBounds : Obligations.XgcdCoefficientBounds := by
  intro a b
  rw [xgcd_fst_eq_gcd]
  exact ⟨xgcd_coeffs_natAbs_le a b,
    fun hb => ⟨xgcd_coeffA_natAbs_le a hb, xgcd_coeffB_natAbs_le a b⟩,
    fun _ hw ha hb => xgcd_coeffs_lt_two_pow hw ha hb⟩

/-- R115: negating both operands keeps every quotient, and so negates both coefficients. -/
theorem xgcd_neg_neg (a b : Int) :
    xgcd (-a) (-b) = ((xgcd a b).1, -(xgcd a b).2.1, -(xgcd a b).2.2) := by
  induction a, b using xgcd_induction with
  | base a => simp
  | step a b hb ih =>
    have hrem : -a - a.fdiv b * -b = -(a - a.fdiv b * b) := by ring
    rw [xgcd_of_ne_zero (-a) (neg_ne_zero.2 hb), xgcd_of_ne_zero a hb, Int.neg_fdiv_neg, hrem, ih]
    simp only [Prod.mk.injEq, true_and]
    ring

/-- Settles O16: negation goes through the recursion, and an exact division ends it at once. -/
theorem xgcdSigns : Obligations.XgcdSigns := by
  refine ⟨fun a b g x y h => ?_, fun _ _ => xgcd_of_dvd⟩
  rw [xgcd_neg_neg, h]

/-! ### The command (R112, R236) -/

theorem exec_xgcd (sa sb : Bool) (s : State) :
    exec (.xgcd sa sb) s =
      .next (s.complete .ok .none (xgcdResults (s.operandA sa) (s.operandB sb))) := rfl

theorem xgcdResults_of_eq {a b x y : Int} {g : Nat} (h : xgcd a b = (g, x, y)) :
    xgcdResults a b =
      { v0 := g, v1 := x.natAbs, v2 := y.natAbs, sx := decide (x < 0), sy := decide (y < 0) } := by
  rw [xgcdResults, h]

/-- Settles O12: the command completes with the results of its signed operands. -/
theorem xgcdCompletes : Obligations.XgcdCompletes := by
  intro sa sb s g x y h
  rw [exec_xgcd, State.operandA, State.operandB, xgcdResults_of_eq h]
  rfl

end Sys2Proof.Machine
end

section
/-! PROOFS. The family of spec/41_modinv.md: what `modinv` answers (R131), its laws (R133), and the completion of MODINV (R132, R236, R239). -/

namespace Sys2Proof.Machine

/-! ### Inverses modulo `m` (R131) -/

/-- Two inverses of `a` differ by a multiple of the modulus. -/
theorem dvd_sub_of_inverses {a m x y : Int} (hx : m ∣ a * x - 1) (hy : m ∣ a * y - 1) :
    m ∣ x - y := by
  have h : x - y = x * -(a * y - 1) + y * (a * x - 1) := by ring
  exact h ▸ dvd_add (hy.neg_right.mul_left x) (hx.mul_left y)

/-- R131: the inverse in `[0, m)` is unique. -/
theorem inverse_unique {a m : Int} {x y : Nat} (hxm : (x : Int) < m) (hym : (y : Int) < m)
    (hx : m ∣ a * x - 1) (hy : m ∣ a * y - 1) : x = y := by
  have hmod : (x : Int) % m = y % m := Int.modEq_iff_dvd.2 (dvd_sub_of_inverses hy hx)
  rw [Int.emod_eq_of_lt (by omega) hxm, Int.emod_eq_of_lt (by omega) hym] at hmod
  exact Int.ofNat.inj hmod

/-- A number that has an inverse is coprime to the modulus. -/
theorem gcd_eq_one_of_inverse {a m x : Int} (h : m ∣ a * x - 1) : Int.gcd a m = 1 := by
  obtain ⟨k, hk⟩ := h
  exact Int.isCoprime_iff_gcd_eq_one.1 ⟨x, -k, by linear_combination hk⟩

/-! ### The answer of `modinv` (R131, R239) -/

theorem modinv_of_nonpos (a : Int) {m : Int} (hm : m ≤ 0) :
    modinv a m = .error (.invalid .nonpositiveModulus) := if_pos hm

/-- R131 below its first test, with the gcd for the first component of `xgcd`. -/
theorem modinv_of_pos (a : Int) {m : Int} (hm : 0 < m) :
    modinv a m =
      if Int.gcd a m = 1 then .ok ((xgcd a m).2.1.fmod m).toNat else .error .noInverse := by
  rw [modinv, if_neg (not_le.2 hm), ← xgcd_fst_eq_gcd]

theorem modinv_of_gcd_ne_one {a m : Int} (hm : 0 < m) (hg : Int.gcd a m ≠ 1) :
    modinv a m = .error .noInverse := by
  rw [modinv_of_pos a hm, if_neg hg]

/-- R133 (a), (b): when `a` is coprime to the modulus, the answer is an inverse below it; the
congruence is Bezout's identity, whose coefficient the reduction modulo `m` keeps. -/
theorem modinv_of_gcd_eq_one {a m : Int} (hm : 0 < m) (hg : Int.gcd a m = 1) :
    ∃ x : Nat, modinv a m = .ok x ∧ (x : Int) < m ∧ m ∣ a * x - 1 := by
  have hok : modinv a m = .ok ((xgcd a m).2.1.fmod m).toNat := by
    rw [modinv_of_pos a hm, if_pos hg]
  refine ⟨_, hok, modinv_lt hok, ?_⟩
  have hbez : a * (xgcd a m).2.1 + m * (xgcd a m).2.2 = 1 := by simpa [hg] using xgcd_bezout a m
  have hdiv := Int.mul_fdiv_add_fmod (xgcd a m).2.1 m
  rw [Int.toNat_of_nonneg (Int.fmod_nonneg_of_pos _ hm)]
  use -(xgcd a m).2.2 - a * (xgcd a m).2.1.fdiv m
  linear_combination hbez + a * hdiv

/-- R131: the answers of `modinv` are exactly the inverses in `[0, m)`. -/
theorem modinv_eq_ok_iff {a m : Int} (hm : 0 < m) {x : Nat} :
    modinv a m = .ok x ↔ (x : Int) < m ∧ m ∣ a * x - 1 := by
  constructor
  · intro h
    by_cases hg : Int.gcd a m = 1
    · obtain ⟨y, hy, hlt, hdvd⟩ := modinv_of_gcd_eq_one hm hg
      cases h.symm.trans hy
      exact ⟨hlt, hdvd⟩
    · cases h.symm.trans (modinv_of_gcd_ne_one hm hg)
  · rintro ⟨hlt, hdvd⟩
    obtain ⟨y, hy, hylt, hydvd⟩ := modinv_of_gcd_eq_one hm (gcd_eq_one_of_inverse hdvd)
    rw [hy, inverse_unique hylt hlt hydvd hdvd]

/-! ### The laws (R133) -/

/-- R133 (c). -/
theorem modinv_add_mul_self (a k : Int) {m : Int} (hm : 0 < m) :
    modinv (a + k * m) m = modinv a m := by
  have hgcd : Int.gcd (a + k * m) m = Int.gcd a m := by simp
  by_cases hg : Int.gcd a m = 1
  · obtain ⟨x, hx, hlt, hdvd⟩ := modinv_of_gcd_eq_one hm hg
    have hres : (a + k * m) * x - 1 = a * x - 1 + m * (k * x) := by ring
    rw [hx, modinv_eq_ok_iff hm, hres]
    exact ⟨hlt, dvd_add hdvd (Dvd.intro _ rfl)⟩
  · rw [modinv_of_gcd_ne_one hm hg, modinv_of_gcd_ne_one hm (hgcd ▸ hg)]

/-- R133 (d): being inverse is symmetric, so the residue of `a` is the inverse of its inverse. -/
theorem modinv_modinv {a m : Int} (hm : 0 < m) {x : Nat} (h : modinv a m = .ok x) :
    modinv x m = .ok (a.fmod m).toNat := by
  obtain ⟨-, hdvd⟩ := (modinv_eq_ok_iff hm).1 h
  have hdiv := Int.mul_fdiv_add_fmod a m
  have hres : (x : Int) * a.fmod m - 1 = a * x - 1 - m * (a.fdiv m * x) := by
    linear_combination x * hdiv
  rw [modinv_eq_ok_iff hm, Int.toNat_of_nonneg (Int.fmod_nonneg_of_pos a hm), hres]
  exact ⟨Int.fmod_lt_of_pos a hm, dvd_sub hdvd (Dvd.intro _ rfl)⟩

/-- Settles O19: the law of residues, and the involution, which holds for the modulus 1 too. -/
theorem modinvResiduesAndInvolution : Obligations.ModinvResiduesAndInvolution :=
  ⟨fun a _ k hm => modinv_add_mul_self a k (by omega), fun _ _ _ hm => modinv_modinv (by omega)⟩

/-! ### The command (R132, R236) -/

theorem exec_modinv (sa sc : Bool) (s : State) :
    exec (.modinv sa sc) s =
      .next (s.completeWith (modinv (s.operandA sa) (s.operandC sc))) := rfl

/-- Settles O18: the three answers of `modinv`, each completed; only one answer can be an inverse
below the modulus. -/
theorem modinvCompletes : Obligations.ModinvCompletes := by
  rintro sa sc s a m rfl rfl
  rw [exec_modinv, State.operandA, State.operandC]
  refine ⟨fun hm => ?_, fun hm hg => ?_, fun hm hg => ?_⟩
  · rw [modinv_of_nonpos _ hm]
    rfl
  · rw [modinv_of_gcd_ne_one hm hg]
    rfl
  · obtain ⟨x, hx, hlt, hdvd⟩ := modinv_of_gcd_eq_one hm hg
    refine ⟨x, hlt, hdvd, fun y hy hydvd => inverse_unique hy hlt hydvd hdvd, ?_⟩
    rw [hx]
    rfl

end Sys2Proof.Machine
end

section
/-! PROOFS. The family of spec/42_modexp.md: the value of the exponentiation loop (R146, R148), the states it goes through (R149, R151), and the completion of MODEXP (R147, R236, R239). -/

namespace Sys2Proof.Machine

/-! ### The value of the loop (R146, R148) -/

theorem modexpLoop_zero (m f res base : Nat) : modexpLoop m f res base 0 = res := by
  cases f <;> simp [modexpLoop]

/-- What an iteration of R146's loop keeps: `res * base^e` modulo `m`. -/
theorem modexp_iteration_modEq (m res base e : Nat) :
    (if e % 2 = 1 then res * base % m else res) * (base * base % m) ^ (e / 2) ≡
      res * base ^ e [MOD m] := by
  have hsq : (base * base % m) ^ (e / 2) ≡ base ^ (2 * (e / 2)) [MOD m] := by
    rw [pow_mul, sq]
    exact (Nat.mod_modEq _ m).pow _
  have hpow : base ^ e = base ^ (e % 2) * base ^ (2 * (e / 2)) := by
    rw [← pow_add, Nat.mod_add_div]
  rw [hpow]
  obtain h | h := Nat.mod_two_eq_zero_or_one e
  · simpa [h] using hsq.mul_left res
  · simpa [h, mul_assoc] using (Nat.mod_modEq (res * base) m).mul hsq

/-- R146: with a positive exponent the loop ends on a reduced product, which is `res * base^e`
modulo `m`. -/
theorem modexpLoop_of_pos (m : Nat) : ∀ f res base e : Nat, 0 < e → e ≤ f →
    modexpLoop m f res base e = res * base ^ e % m := by
  intro f
  induction f with
  | zero => intro res base e h0 hf; omega
  | succ f ih =>
    intro res base e h0 hf
    rw [modexpLoop, if_neg h0.ne']
    obtain rfl | h1 := Nat.eq_or_lt_of_le h0
    · simp [modexpLoop_zero]
    · rw [ih _ _ _ (by omega) (by omega)]
      exact modexp_iteration_modEq m res base e

theorem powMod_zero (m b : Nat) : powMod m b 0 = 1 := rfl

/-- R148. -/
theorem powMod_of_pos (m b : Nat) {e : Nat} (he : 0 < e) : powMod m b e = b ^ e % m := by
  rw [powMod, modexpLoop_of_pos m e 1 _ e he (Nat.le_refl e), one_mul, ← Nat.pow_mod]

/-- The base enters only as its residue. -/
theorem powMod_mod (m b e : Nat) : powMod m (b % m) e = powMod m b e := by
  rw [powMod, Nat.mod_mod, powMod]

/-! ### The answer of `modexp` (R146, R239) -/

theorem modexp_of_nonpos (b e : Int) {m : Int} (hm : m ≤ 0) :
    modexp b e m = .error (.invalid .nonpositiveModulus) := if_pos hm

theorem modexp_of_neg (b : Int) {e m : Int} (hm : 0 < m) (he : e < 0) :
    modexp b e m = .error (.invalid .negativeExponent) := by
  rw [modexp, if_neg (not_le.2 hm), if_pos he]

/-- R146 below its two tests. -/
theorem modexp_of_nonneg (b : Int) {e m : Int} (hm : 0 < m) (he : 0 ≤ e) :
    modexp b e m = .ok (powMod m.toNat (b.fmod m).toNat e.toNat) := by
  rw [modexp, if_neg (not_le.2 hm), if_neg (not_lt.2 he)]

/-- The power of the residue and the residue of the power agree, for a base of either sign. -/
theorem toNat_fmod_pow_mod (b : Int) (n : Nat) {m : Int} (hm : 0 < m) :
    (b.fmod m).toNat ^ n % m.toNat = ((b ^ n).fmod m).toNat := by
  apply Int.ofNat.inj
  have hpow : (b % m) ^ n % m = b ^ n % m := (Int.mod_modEq b m).pow n
  simp only [Int.ofNat_eq_natCast, Int.natCast_emod, Int.natCast_pow,
    Int.fmod_eq_emod_of_nonneg _ hm.le, Int.toNat_of_nonneg hm.le,
    Int.toNat_of_nonneg (Int.emod_nonneg _ hm.ne'), hpow]

/-- R148: a positive exponent gives the floor residue of the power. -/
theorem modexp_of_pos (b : Int) {e m : Int} (hm : 0 < m) (he : 0 < e) :
    modexp b e m = .ok ((b ^ e.toNat).fmod m).toNat := by
  rw [modexp_of_nonneg b hm he.le, powMod_of_pos _ _ (by omega), toNat_fmod_pow_mod b _ hm]

/-- On natural numbers `modexp` is `powMod`. -/
theorem modexp_natCast (b e : Nat) {m : Nat} (hm : 0 < m) :
    modexp (b : Int) (e : Int) (m : Int) = .ok (powMod m b e) := by
  rw [modexp_of_nonneg _ (by omega) (by omega), ← powMod_mod m b e,
    Int.fmod_eq_emod_of_nonneg _ (by omega)]
  rfl

/-! ### The states of the loop (R149, R151) -/

/-- What holds of a state and is kept by each iteration holds of every state of the trace. -/
theorem forall_mem_modexpTrace {m : Nat} {P : Nat × Nat × Nat → Prop}
    (hnext : ∀ res base e, e ≠ 0 → P (res, base, e) →
      P (if e % 2 = 1 then res * base % m else res, base * base % m, e / 2)) :
    ∀ f res base e, P (res, base, e) → ∀ st ∈ (res, base, e) :: modexpTrace m f res base e, P st := by
  intro f
  induction f with
  | zero => simp [modexpTrace]
  | succ f ih =>
    intro res base e h
    rw [List.forall_mem_cons]
    refine ⟨h, ?_⟩
    by_cases he : e = 0
    · simp [modexpTrace, he]
    · rw [modexpTrace, if_neg he]
      exact ih _ _ _ (hnext res base e he h)

/-- The last state of the trace has exponent 0 and holds the loop's result. -/
theorem getLast?_modexpTrace (m : Nat) : ∀ f res base e : Nat, e ≤ f →
    ∃ base', ((res, base, e) :: modexpTrace m f res base e).getLast? =
      some (modexpLoop m f res base e, base', 0) := by
  intro f
  induction f with
  | zero =>
    intro res base e hf
    obtain rfl : e = 0 := by omega
    exact ⟨base, rfl⟩
  | succ f ih =>
    intro res base e hf
    by_cases he : e = 0
    · exact ⟨base, by simp [modexpTrace, modexpLoop, he]⟩
    · rw [modexpTrace, modexpLoop, if_neg he, if_neg he, List.getLast?_cons_cons]
      exact ih _ _ _ (by omega)

/-- R149's invariant of a loop state `(res, base, e)`, with the result `v` the loop goes on to. -/
structure ModexpStateInv (m v : Nat) (st : Nat × Nat × Nat) : Prop where
  base_lt : st.2.1 < m
  res_lt_or_one : st.1 < m ∨ st.1 = 1
  loop_eq : modexpLoop m st.2.2 st.1 st.2.1 st.2.2 = v

/-- The state before the first iteration. -/
theorem modexpStateInv_first {m : Nat} (hm : 0 < m) (b e : Nat) :
    ModexpStateInv m (powMod m b e) (1, b % m, e) :=
  ⟨Nat.mod_lt b hm, .inr rfl, rfl⟩

/-- Each iteration reduces what it multiplies. -/
theorem ModexpStateInv.next {m v res base e : Nat} (he : e ≠ 0)
    (h : ModexpStateInv m v (res, base, e)) :
    ModexpStateInv m v
      (if e % 2 = 1 then res * base % m else res, base * base % m, e / 2) := by
  have hm : 0 < m := Nat.zero_lt_of_lt h.base_lt
  refine ⟨Nat.mod_lt _ hm, ?_, (modexpLoop_step m res base e he).symm.trans h.loop_eq⟩
  by_cases h2 : e % 2 = 1
  · simpa only [if_pos h2] using .inl (Nat.mod_lt _ hm)
  · simpa only [if_neg h2] using h.res_lt_or_one

theorem ModexpStateInv.base_mul_base_lt {m v : Nat} {st : Nat × Nat × Nat}
    (h : ModexpStateInv m v st) : st.2.1 * st.2.1 < m ^ 2 :=
  sq m ▸ Nat.mul_self_lt_mul_self h.base_lt

theorem ModexpStateInv.res_mul_base_lt {m v : Nat} {st : Nat × Nat × Nat}
    (h : ModexpStateInv m v st) : st.1 * st.2.1 < m ^ 2 := by
  obtain hres | hres := h.res_lt_or_one
  · exact sq m ▸ Nat.mul_lt_mul'' hres h.base_lt
  · rw [hres, one_mul]
    exact h.base_lt.trans_le (Nat.le_self_pow two_ne_zero m)

/-- Settles O21: R149's invariant holds of the first state and each iteration keeps it, so it holds
along the trace, whose last state holds the loop's result. -/
theorem modexpIntermediatesBounded : Obligations.ModexpIntermediatesBounded := by
  intro m b e w hm hw
  refine ⟨?_, fun st hst => ?_, getLast?_modexpTrace m e 1 (b % m) e (Nat.le_refl e),
    modexp_natCast b e hm⟩
  · rw [pow_mul']
    exact Nat.pow_lt_pow_left hw two_ne_zero
  · have h := forall_mem_modexpTrace (P := ModexpStateInv m (powMod m b e))
      (fun _ _ _ he h => h.next he) e 1 (b % m) e (modexpStateInv_first hm b e) st hst
    exact ⟨h.base_lt, h.res_lt_or_one, h.res_mul_base_lt, h.base_mul_base_lt, h.loop_eq⟩

/-! ### The command (R147, R236) -/

theorem exec_modexp (sa sb sc : Bool) (s : State) :
    exec (.modexp sa sb sc) s =
      .next (s.completeWith (modexp (s.operandA sa) (s.operandB sb) (s.operandC sc))) := rfl

/-- Settles O20: the four answers of `modexp`, each completed. -/
theorem modexpCompletes : Obligations.ModexpCompletes := by
  rintro sa sb sc s b e m rfl rfl rfl
  rw [exec_modexp, State.operandA, State.operandB, State.operandC]
  refine ⟨fun hm => ?_, fun hm he => ?_, fun hm he => ?_, fun hm he => ?_⟩
  · rw [modexp_of_nonpos _ _ hm]
    rfl
  · rw [modexp_of_neg _ hm he]
    rfl
  · rw [modexp_of_nonneg _ hm he.ge, he, Int.toNat_zero, powMod_zero]
    rfl
  · rw [modexp_of_pos _ hm he]
    rfl

end Sys2Proof.Machine
end

section
/-! PROOFS. The family of spec/43_mrprime.md: the decomposition and the base of a round (R168, R169), a round in closed form (R170) and that it never disqualifies a prime (R171 d), the rounds on a stream (R166, R171, R174) and on the words offered (R175, R276), and what MRPRIME does (R167, R176). -/

namespace Sys2Proof.Machine

/-! ### The parts of a round (R168, R169) -/

/-- Halving an even number takes one factor 2 off and stops at the odd part. -/
theorem oddPartFuel_two_pow_mul {d : Nat} (hd : d % 2 = 1) : ∀ r f : Nat, 2 ^ r * d ≤ f →
    oddPartFuel f (2 ^ r * d) = (r, d) := by
  intro r
  induction r with
  | zero =>
    intro f hf
    obtain ⟨f, rfl⟩ : ∃ k, f = k + 1 := ⟨f - 1, by omega⟩
    simp [oddPartFuel, hd]
  | succ r ih =>
    intro f hf
    have hpos : 0 < 2 ^ r * d := Nat.mul_pos (Nat.two_pow_pos r) (by omega)
    have hdouble : 2 ^ (r + 1) * d = 2 * (2 ^ r * d) := by rw [pow_succ', mul_assoc]
    rw [hdouble] at hf ⊢
    obtain ⟨f, rfl⟩ : ∃ k, f = k + 1 := ⟨f - 1, by omega⟩
    rw [oddPartFuel, if_pos (Nat.mul_mod_right 2 _), Nat.mul_div_cancel_left _ two_pos,
      ih f (by omega)]

/-- R168: a power of two times an odd number is taken apart into just these. -/
theorem decomposition_eq {n r d : Nat} (hd : d % 2 = 1) (h : n - 1 = 2 ^ r * d) :
    decomposition n = (r, d) := by
  rw [decomposition, h]
  exact oddPartFuel_two_pow_mul hd r _ le_rfl

/-- R168: an odd `n` above 1 has a decomposition. -/
theorem exists_decomposition {n : Nat} (hn : 1 < n) (hodd : n % 2 = 1) :
    ∃ r d, 1 ≤ r ∧ d % 2 = 1 ∧ n - 1 = 2 ^ r * d := by
  obtain ⟨r, d, hd, hrd⟩ := Nat.exists_eq_two_pow_mul_odd (n := n - 1) (by omega)
  have hd2 : d % 2 = 1 := Nat.odd_iff.1 hd
  refine ⟨r, d, ?_, hd2, hrd⟩
  rw [Nat.one_le_iff_ne_zero]
  rintro rfl
  omega

/-- Settles O25: some pair is a decomposition of `n - 1`, and every such pair is the one the halving
stops at. -/
theorem mrDecompositionUnique : Obligations.MrDecompositionUnique := by
  intro n hn hodd
  obtain ⟨r, d, hr, hd, hrd⟩ := exists_decomposition (by omega) hodd
  rw [decomposition_eq hd hrd]
  refine ⟨⟨hr, hd, hrd⟩, fun r' d' _ hd' hrd' => ?_⟩
  rw [← decomposition_eq hd hrd, decomposition_eq hd' hrd']

/-- R169: the base lies in `[2, n - 2]`. -/
theorem roundBase_mem {n : Nat} (w : Nat) (hn : 5 ≤ n) :
    2 ≤ roundBase n w ∧ roundBase n w ≤ n - 2 := by
  have hlt : w % (n - 3) < n - 3 := Nat.mod_lt w (by omega)
  rw [roundBase]
  omega

/-- Settles O26: `a - 2` is below `n - 3`, so its base is `a`. -/
theorem mrBaseRange : Obligations.MrBaseRange := by
  refine fun n hn => ⟨fun w => ⟨rfl, roundBase_mem w hn⟩, fun a ha han => ?_⟩
  rw [roundBase, Nat.mod_eq_of_lt (by omega)]
  omega

/-! ### A round in closed form (R170) -/

/-- R170's squarings reach `x^(2^(j+1))` for `j < k`. -/
theorem squaringsHit_iff (n : Nat) : ∀ k x : Nat,
    squaringsHit n k x = true ↔ ∃ j, j < k ∧ x ^ 2 ^ (j + 1) % n = n - 1 := by
  intro k
  induction k with
  | zero => simp [squaringsHit]
  | succ k ih =>
    intro x
    have hsq (j : Nat) : (x * x % n) ^ 2 ^ (j + 1) % n = x ^ 2 ^ (j + 1 + 1) % n := by
      rw [← Nat.pow_mod, ← sq, ← pow_mul, ← pow_succ']
    rw [Nat.exists_lt_succ_left]
    simp only [squaringsHit, Bool.or_eq_true, beq_iff_eq, ih, hsq, zero_add, pow_one, sq]

/-- Settles O27: the first power is `modexp`'s, the others are its squarings. -/
theorem mrRoundClosedForm : Obligations.MrRoundClosedForm := by
  intro n r d a _ hr hd
  obtain ⟨k, rfl⟩ : ∃ k, r = k + 1 := ⟨r - 1, by omega⟩
  have hpow (j : Nat) : (a ^ d % n) ^ 2 ^ (j + 1) % n = a ^ (2 ^ (j + 1) * d) % n := by
    rw [← Nat.pow_mod, ← pow_mul, mul_comm]
  rw [Nat.exists_lt_succ_left]
  simp only [roundPasses, powMod_of_pos n a hd, Bool.or_eq_true, beq_iff_eq, squaringsHit_iff,
    hpow, Nat.add_sub_cancel, pow_zero, one_mul, or_assoc]

/-! ### A prime passes every round (R171 d) -/

/-- The last squaring that is not yet 1 is a square root of 1, and without zero divisors that is
`-1`. -/
theorem eq_one_or_exists_pow_eq_neg_one {R : Type*} [Ring R] [NoZeroDivisors R] {x : R} :
    ∀ r : Nat, x ^ 2 ^ r = 1 → x = 1 ∨ ∃ j, j < r ∧ x ^ 2 ^ j = -1 := by
  intro r
  induction r with
  | zero => intro h; exact .inl (by simpa using h)
  | succ r ih =>
    intro h
    rw [pow_succ, pow_mul, sq, mul_self_eq_one_iff] at h
    rcases h with h | h
    · exact (ih h).imp_right fun ⟨j, hj, hx⟩ => ⟨j, hj.trans r.lt_succ_self, hx⟩
    · exact .inr ⟨r, r.lt_succ_self, h⟩

theorem natCast_pow_eq_natCast_iff {n b : Nat} (a e : Nat) (hb : b < n) :
    (a : ZMod n) ^ e = b ↔ a ^ e % n = b := by
  rw [← Nat.cast_pow, ZMod.natCast_eq_natCast_iff', Nat.mod_eq_of_lt hb]

/-- R171 (d): for a prime, every base it does not divide passes. Fermat's theorem gives
`(a^d)^(2^r) = 1`. -/
theorem roundPasses_of_prime {n r d a : Nat} (hp : n.Prime) (hn : 5 ≤ n) (hr : 1 ≤ r)
    (hd : 1 ≤ d) (hrd : n - 1 = 2 ^ r * d) (ha : ¬ n ∣ a) : roundPasses n r d a = true := by
  have : Fact n.Prime := ⟨hp⟩
  have ha0 : (a : ZMod n) ≠ 0 := fun h => ha ((ZMod.natCast_eq_zero_iff a n).1 h)
  have hfermat : ((a : ZMod n) ^ d) ^ 2 ^ r = 1 := by
    rw [← pow_mul, mul_comm, ← hrd, ZMod.pow_card_sub_one_eq_one ha0]
  have hneg : ((n - 1 : Nat) : ZMod n) = -1 := by
    rw [Nat.cast_pred hp.pos, ZMod.natCast_self, zero_sub]
  rw [mrRoundClosedForm n r d a hn hr hd]
  obtain h | ⟨j, hj, h⟩ := eq_one_or_exists_pow_eq_neg_one r hfermat
  · exact .inl ((natCast_pow_eq_natCast_iff a d (by omega)).1 (by rw [h, Nat.cast_one]))
  · refine .inr ⟨j, hj, (natCast_pow_eq_natCast_iff a _ (by omega)).1 ?_⟩
    rw [mul_comm, pow_mul, h, hneg]

theorem wordPasses_of_prime {n : Nat} (hp : n.Prime) (hn : 5 ≤ n) (w : Nat) :
    wordPasses n w = true := by
  have hodd : n % 2 = 1 := hp.eq_two_or_odd.resolve_left (by omega)
  obtain ⟨r, d, hr, hd, hrd⟩ := exists_decomposition (by omega) hodd
  obtain ⟨hbase, hbase'⟩ := roundBase_mem w hn
  rw [wordPasses, decomposition_eq hd hrd]
  exact roundPasses_of_prime hp hn hr (by omega) hrd
    (Nat.not_dvd_of_pos_of_lt (by omega) (by omega))

/-! ### The answers without a draw (R166, R171 a) -/

/-- Below 5 or even, the answer is whether `n` is 2 or 3. -/
theorem mrDeterministic_of_lt_or_even {n : Int} (h : n < 5 ∨ n % 2 = 0) :
    mrDeterministic n = some (decide (n = 2 ∨ n = 3)) := by
  unfold mrDeterministic
  split
  next => rw [decide_eq_false (by omega)]
  next =>
    split
    next h23 => rw [decide_eq_true h23]
    next h23 => rw [if_pos (by omega), decide_eq_false h23]

/-- From 5 on an odd number is answered by its rounds. -/
theorem mrDeterministic_of_odd {n : Int} (hn : 5 ≤ n) (hodd : n % 2 = 1) :
    mrDeterministic n = none := by
  rw [mrDeterministic, if_neg (by omega), if_neg (by omega), if_neg (by omega)]

theorem five_le_of_mrDeterministic_eq_none {n : Int} (h : mrDeterministic n = none) : 5 ≤ n := by
  by_contra hn
  simp [mrDeterministic_of_lt_or_even (.inl (not_le.1 hn))] at h

/-- A negative answer without a draw is right. -/
theorem not_prime_of_mrDeterministic_eq_false {n : Int} (h : mrDeterministic n = some false) :
    ¬ n.toNat.Prime := by
  intro hp
  have htwo := hp.two_le
  obtain heven | hodd := Int.emod_two_eq_zero_or_one n
  · rw [mrDeterministic_of_lt_or_even (.inr heven)] at h
    have := hp.eq_two_or_odd
    simp only [Option.some.injEq, decide_eq_false_iff_not] at h
    omega
  · by_cases hn : n < 5
    · rw [mrDeterministic_of_lt_or_even (.inl hn)] at h
      simp only [Option.some.injEq, decide_eq_false_iff_not] at h
      omega
    · simp [mrDeterministic_of_odd (not_lt.1 hn) hodd] at h

section
variable {n : Int}

theorem mrprime_of_deterministic {v : Bool} (h : mrDeterministic n = some v) (rounds : Nat)
    (ws : List Nat) : mrprime n rounds ws = ⟨some v, 0⟩ := by
  simp only [mrprime, h]

theorem mrprime_of_rounds (h : mrDeterministic n = none) (rounds : Nat) (ws : List Nat) :
    mrprime n rounds ws = mrRounds n.toNat rounds ws := by
  simp only [mrprime, h]

theorem mrprimeStream_of_deterministic {v : Bool} (h : mrDeterministic n = some v) (rounds : Nat)
    (draw : Nat → Nat) (pos : Nat) : mrprimeStream n rounds draw pos = (v, 0) := by
  simp only [mrprimeStream, h]

theorem mrprimeStream_of_rounds (h : mrDeterministic n = none) (rounds : Nat) (draw : Nat → Nat)
    (pos : Nat) : mrprimeStream n rounds draw pos = mrRoundsStream n.toNat draw rounds pos := by
  simp only [mrprimeStream, h]

end

/-! ### The rounds on a stream (R166, R171 c, R174) -/

section
variable {n k pos j : Nat} {draw : Nat → Nat} {v : Bool}

/-- What the first of the rounds does: it passes and the others follow, or it ends the command. -/
theorem mrRoundsStream_succ_cases (h : mrRoundsStream n draw (k + 1) pos = (v, j)) :
    (wordPasses n (draw pos) = true ∧
      ∃ i, j = i + 1 ∧ mrRoundsStream n draw k (pos + 1) = (v, i)) ∨
    (wordPasses n (draw pos) = false ∧ v = false ∧ j = 1) := by
  rw [mrRoundsStream] at h
  split at h
  next hp => cases h; exact .inl ⟨hp, _, rfl, rfl⟩
  next hp => cases h; exact .inr ⟨by simpa using hp, rfl, rfl⟩

/-- Verdict 1: every round ran and passed. -/
theorem mrRoundsStream_true (h : mrRoundsStream n draw k pos = (true, j)) :
    j = k ∧ ∀ i, i < k → wordPasses n (draw (pos + i)) = true := by
  induction k generalizing pos j with
  | zero => cases h; simp
  | succ k ih =>
    obtain ⟨hp, i, rfl, hrest⟩ | ⟨-, hv, -⟩ := mrRoundsStream_succ_cases h
    · obtain ⟨rfl, hall⟩ := ih hrest
      rw [Nat.forall_lt_succ_left]
      exact ⟨rfl, hp, fun l hl => by simpa only [add_comm l, add_assoc] using hall l hl⟩
    · cases hv

/-- Verdict 0: the last word drawn is the first that fails. -/
theorem mrRoundsStream_false (h : mrRoundsStream n draw k pos = (false, j)) :
    ∃ i, j = i + 1 ∧ i < k ∧ wordPasses n (draw (pos + i)) = false ∧
      ∀ l, l < i → wordPasses n (draw (pos + l)) = true := by
  induction k generalizing pos j with
  | zero => cases h
  | succ k ih =>
    obtain ⟨hp, i, rfl, hrest⟩ | ⟨hp, -, rfl⟩ := mrRoundsStream_succ_cases h
    · obtain ⟨i, rfl, hik, hfail, hall⟩ := ih hrest
      refine ⟨i + 1, rfl, Nat.succ_lt_succ hik, ?_, ?_⟩
      · simpa only [add_comm i, add_assoc] using hfail
      · rw [Nat.forall_lt_succ_left]
        exact ⟨hp, fun l hl => by simpa only [add_comm l, add_assoc] using hall l hl⟩
    · exact ⟨0, rfl, k.succ_pos, hp, nofun⟩

end

/-- Settles O28: the deterministic answers draw nothing, the rounds draw as many words as run. -/
theorem mrDraws : Obligations.MrDraws := by
  intro n rounds draw pos v k h
  refine ⟨fun hn => ?_, fun hn hodd hv => ?_, fun hn hodd hv => ?_⟩
  · rw [mrprimeStream_of_deterministic (mrDeterministic_of_lt_or_even hn)] at h
    cases h
    simp
  · rw [mrprimeStream_of_rounds (mrDeterministic_of_odd hn hodd), hv] at h
    exact mrRoundsStream_true h
  · rw [mrprimeStream_of_rounds (mrDeterministic_of_odd hn hodd), hv] at h
    obtain ⟨i, rfl, hi, hfail, hall⟩ := mrRoundsStream_false h
    exact ⟨i.succ_pos, hi, hfail, hall⟩

/-! ### The rounds on the words offered (R166, R175, R276) -/

section
variable {n k w : Nat} {ws : List Nat}

theorem mrRounds_cons_of_passes (h : wordPasses n w = true) :
    mrRounds n (k + 1) (w :: ws) = ⟨(mrRounds n k ws).verdict, (mrRounds n k ws).draws + 1⟩ := by
  rw [mrRounds, if_pos h]

theorem mrRounds_cons_of_fails (h : wordPasses n w = false) :
    mrRounds n (k + 1) (w :: ws) = ⟨some false, 1⟩ := by
  rw [mrRounds, if_neg (by simp [h])]

/-- When the words drawn are those of the stream, the rounds go as they do on the stream. -/
theorem mrRounds_of_stream {draw : Nat → Nat} {pos j : Nat} {v : Bool}
    (h : mrRoundsStream n draw k pos = (v, j))
    (hws : ∀ i, i < j → ws[i]? = some (draw (pos + i))) : mrRounds n k ws = ⟨some v, j⟩ := by
  induction k generalizing pos j ws with
  | zero => cases h; rfl
  | succ k ih =>
    have hj : 0 < j := by
      obtain ⟨-, i, rfl, -⟩ | ⟨-, -, rfl⟩ := mrRoundsStream_succ_cases h
      · exact i.succ_pos
      · exact one_pos
    cases ws with
    | nil => cases hws 0 hj
    | cons w ws =>
      obtain rfl : w = draw pos := Option.some.inj (hws 0 hj)
      obtain ⟨hp, i, rfl, hrest⟩ | ⟨hp, rfl, rfl⟩ := mrRoundsStream_succ_cases h
      · have htail : ∀ l, l < i → ws[l]? = some (draw (pos + 1 + l)) := fun l hl => by
          rw [add_assoc, add_comm 1]
          exact hws (l + 1) (Nat.succ_lt_succ hl)
        rw [mrRounds_cons_of_passes hp, ih hrest htail]
      · exact mrRounds_cons_of_fails hp

/-- Rounds that ran short of words go on with the words offered behind them. -/
theorem mrRounds_append (h : (mrRounds n k ws).verdict = none) (ws' : List Nat) :
    mrRounds n k (ws ++ ws') =
      ⟨(mrRounds n (k - ws.length) ws').verdict,
        ws.length + (mrRounds n (k - ws.length) ws').draws⟩ := by
  induction k generalizing ws with
  | zero => simp [mrRounds] at h
  | succ k ih =>
    cases ws with
    | nil => simp
    | cons w ws =>
      cases hp : wordPasses n w with
      | false => simp [mrRounds_cons_of_fails hp] at h
      | true =>
        rw [mrRounds_cons_of_passes hp] at h
        rw [List.cons_append, mrRounds_cons_of_passes hp, ih h, List.length_cons,
          Nat.add_sub_add_right, Nat.add_right_comm]

/-- Verdict 0 comes from a word that fails. -/
theorem exists_fails_of_mrRounds_false (h : (mrRounds n k ws).verdict = some false) :
    ∃ w, wordPasses n w = false := by
  by_contra hall
  have hpass (w : Nat) : wordPasses n w = true := by simpa using not_exists.1 hall w
  induction k generalizing ws with
  | zero => simp [mrRounds] at h
  | succ k ih =>
    cases ws with
    | nil => simp [mrRounds] at h
    | cons w ws =>
      rw [mrRounds_cons_of_passes (hpass w)] at h
      exact ih h

end

section
variable {n : Int} {rounds : Nat} {ws : List Nat}

/-- `mrprime` on the words offered agrees with R166 on the stream they come from. -/
theorem mrprime_of_stream {draw : Nat → Nat} {pos k : Nat} {v : Bool}
    (h : mrprimeStream n rounds draw pos = (v, k))
    (hws : ∀ i, i < k → ws[i]? = some (draw (pos + i))) : mrprime n rounds ws = ⟨some v, k⟩ := by
  cases hdet : mrDeterministic n with
  | some v' =>
    rw [mrprimeStream_of_deterministic hdet] at h
    cases h
    exact mrprime_of_deterministic hdet rounds ws
  | none =>
    rw [mrprimeStream_of_rounds hdet] at h
    rw [mrprime_of_rounds hdet]
    exact mrRounds_of_stream h hws

theorem mrDeterministic_eq_none_of_waits (h : (mrprime n rounds ws).verdict = none) :
    mrDeterministic n = none := by
  cases hdet : mrDeterministic n with
  | some v => simp [mrprime_of_deterministic hdet] at h
  | none => rfl

/-- R276: what waits has drawn every word there was. -/
theorem mrprime_draws_of_waits (h : (mrprime n rounds ws).verdict = none) :
    (mrprime n rounds ws).draws = ws.length := by
  have hdet := mrDeterministic_eq_none_of_waits h
  rw [mrprime_of_rounds hdet] at h ⊢
  exact mrRounds_none_draws n.toNat rounds ws h

theorem mrprime_append (h : (mrprime n rounds ws).verdict = none) (ws' : List Nat) :
    mrprime n rounds (ws ++ ws') =
      ⟨(mrprime n (rounds - ws.length) ws').verdict,
        ws.length + (mrprime n (rounds - ws.length) ws').draws⟩ := by
  have hdet := mrDeterministic_eq_none_of_waits h
  rw [mrprime_of_rounds hdet] at h
  rw [mrprime_of_rounds hdet, mrprime_of_rounds hdet, mrRounds_append h]

/-- R171 (d): verdict 0 is given to no prime. -/
theorem not_prime_of_mrprime_false (h : (mrprime n rounds ws).verdict = some false) :
    ¬ n.toNat.Prime := by
  cases hdet : mrDeterministic n with
  | some v =>
    obtain rfl : v = false := by simpa [mrprime_of_deterministic hdet] using h
    exact not_prime_of_mrDeterministic_eq_false hdet
  | none =>
    intro hp
    rw [mrprime_of_rounds hdet] at h
    obtain ⟨w, hw⟩ := exists_fails_of_mrRounds_false h
    have hn := five_le_of_mrDeterministic_eq_none hdet
    simp [wordPasses_of_prime hp (by omega) w] at hw

end

/-! ### The command (R167, R176, R276) -/

/-- What a run of `mrprime` makes of the state: a completion, or a wait. -/
def State.mrAfter (s : State) : MrRun → State
  | ⟨some v, k⟩ => s.mrComplete v k
  | ⟨none, k⟩ => s.mrWait k

theorem exec_mrprime (sa : Bool) (rounds : Nat) (s : State) :
    exec (.mrprime sa rounds) s =
      .next (s.mrAfter (mrprime (s.operandA sa) (rounds - s.mrDrawn) s.rng)) := by
  simp only [exec, execMrprime]
  split
  all_goals
    next hrun => rw [hrun, State.mrAfter]

section
variable {sa : Bool} {rounds : Nat} {s t : State}

/-- The two things MRPRIME can do: complete with a verdict, or take the words there are and wait. -/
theorem exec_mrprime_cases (h : exec (.mrprime sa rounds) s = .next t) :
    (∃ v k, mrprime (s.operandA sa) (rounds - s.mrDrawn) s.rng = ⟨some v, k⟩ ∧
      t = s.mrComplete v k) ∨
    (∃ k, mrprime (s.operandA sa) (rounds - s.mrDrawn) s.rng = ⟨none, k⟩ ∧ t = s.mrWait k) := by
  simpa using exec_cases h

/-- An MRPRIME that is busy afterwards is waiting, all its words taken. -/
theorem exec_mrprime_busy (h : exec (.mrprime sa rounds) s = .next t)
    (hb : t.status.busy = true) :
    (mrprime (s.operandA sa) (rounds - s.mrDrawn) s.rng).verdict = none ∧
      t = s.mrWait s.rng.length := by
  obtain ⟨v, k, -, rfl⟩ | ⟨k, hrun, rfl⟩ := exec_mrprime_cases h
  · cases hb
  · have hnone : (mrprime (s.operandA sa) (rounds - s.mrDrawn) s.rng).verdict = none := by rw [hrun]
    refine ⟨hnone, ?_⟩
    rw [← mrprime_draws_of_waits hnone, hrun]

end

/-- More words offered to the source (R81). -/
def State.offerWords (s : State) (ws : List Nat) : State := { s with rng := s.rng ++ ws }

section
variable (s : State) (ws : List Nat)

@[simp] theorem State.offerWords_operandA (sa : Bool) :
    (s.offerWords ws).operandA sa = s.operandA sa := rfl
@[simp] theorem State.offerWords_mrDrawn : (s.offerWords ws).mrDrawn = s.mrDrawn := rfl
@[simp] theorem State.offerWords_rng : (s.offerWords ws).rng = s.rng ++ ws := rfl
@[simp] theorem State.mrWait_operandA (k : Nat) (sa : Bool) :
    (s.mrWait k).operandA sa = s.operandA sa := rfl

theorem State.mrWait_length_rng : (s.mrWait s.rng.length).rng = [] := List.drop_length

/-- Going on after a wait does what going on at once does: the words drawn add up. -/
theorem State.mrWait_offerWords_mrAfter (run : MrRun) :
    ((s.mrWait s.rng.length).offerWords ws).mrAfter run =
      (s.offerWords ws).mrAfter ⟨run.verdict, s.rng.length + run.draws⟩ := by
  obtain ⟨_ | v, k⟩ := run
  · simp [State.mrAfter, State.offerWords, State.mrWait, State.takeWords, Nat.add_assoc]
  · simp [State.mrAfter, State.offerWords, State.mrWait, State.mrComplete, State.takeWords,
      State.complete, Nat.add_assoc]

end

/-- Settles O22: the verdict of R166 on the stream is the verdict on the words offered. -/
theorem mrprimeCompletes : Obligations.MrprimeCompletes := by
  intro sa rounds s draw v k hdrawn hstream hws
  have hrun : mrprime (s.operandA sa) (rounds - s.mrDrawn) s.rng = ⟨some v, k⟩ := by
    rw [hdrawn]
    exact mrprime_of_stream hstream hws
  rw [exec_mrprime, hrun, State.mrAfter, State.mrComplete, hdrawn, Nat.zero_add]
  rfl

/-- Settles O24: the rounds that passed before the wait are those at the front of all the words. -/
theorem mrprimeResumes : Obligations.MrprimeResumes := by
  intro sa rounds s t ws _ h ht
  obtain ⟨hnone, rfl⟩ := exec_mrprime_busy h ht
  change exec _ ((s.mrWait s.rng.length).offerWords ws) = exec _ (s.offerWords ws)
  simp only [exec_mrprime, State.offerWords_operandA, State.mrWait_operandA,
    State.offerWords_mrDrawn, State.mrWait_mrDrawn, State.offerWords_rng, State.mrWait_length_rng,
    List.nil_append, State.mrWait_offerWords_mrAfter, mrprime_append hnone, Nat.sub_sub]

/-- Settles O29: a completion with `PRIME = 0` has verdict 0. -/
theorem primesAreNeverCalledComposite : Obligations.PrimesAreNeverCalledComposite := by
  intro sa rounds s t hbusy h hb hprime
  obtain ⟨v, k, hrun, rfl⟩ | ⟨k, -, rfl⟩ := exec_mrprime_cases h
  · obtain rfl : v = false := hprime
    exact not_prime_of_mrprime_false (n := s.operandA sa) (by rw [hrun])
  · rw [State.mrWait_status, hbusy] at hb
    cases hb

end Sys2Proof.Machine
end

section
/-! PROOFS. The family of spec/44_pack.md: the guards (R188 to R192), the scan (R193 to R195), and what PACK leaves in the block table (R187, R194 to R196). -/

namespace Sys2Proof.Machine

/-! ### The answer of `packGroups` (R186, R239) -/

section
variable {lmax k : Nat} {groups : List Nat} {m : Int}

theorem packGroups_of_guard {sub : SubCause} (h : packGuard lmax k groups m = some sub) :
    packGroups lmax k groups m = .error (.invalid sub) := by
  rw [packGroups, h]

theorem packGroups_of_groupsBelow (hm : 25 < m) (hk : k ≤ lmax) (hgs : GroupsBelow m groups) :
    packGroups lmax k groups m = .ok (packScan m 0 0 groups) := by
  rw [packGroups, packGuard_eq_none.2 ⟨hm, hk, hgs⟩]

/-- R188: the modulus is looked at before anything else. -/
theorem packGuard_of_le (hm : m ≤ 25) : packGuard lmax k groups m = some .modulusTooSmall :=
  if_pos hm

/-- R189. -/
theorem packGuard_of_lt_length (hm : 25 < m) (hk : lmax < k) :
    packGuard lmax k groups m = some .badLength := by
  rw [packGuard, if_neg (not_le.2 hm), if_pos hk]

/-- R190. -/
theorem packGuard_of_digit (hm : 25 < m) (hk : k ≤ lmax) (hg : ∃ g ∈ groups, 99 < g) :
    packGuard lmax k groups m = some .badDigit := by
  rw [packGuard, if_neg (not_le.2 hm), if_neg (not_lt.2 hk), if_pos (by simpa using hg)]

/-- R192: the group guard comes after the digit guard. -/
theorem packGuard_of_group (hm : 25 < m) (hk : k ≤ lmax) (hdig : ∀ g ∈ groups, g ≤ 99)
    (hg : ∃ g ∈ groups, m ≤ (g : Int)) : packGuard lmax k groups m = some .groupTooLarge := by
  rw [packGuard, if_neg (not_le.2 hm), if_neg (not_lt.2 hk), if_neg (by simpa using hdig),
    if_pos (by simpa using hg)]

end

/-! ### Unpacking a scan (R195, R211) -/

/-- Dropping the appended group and `k` before it is dropping those `k` from the block it was
appended to. -/
theorem append_div_pow_succ {v g : Nat} (hg : g ≤ 99) (k : Nat) :
    (v * 100 + g) / 100 ^ (k + 1) = v / 100 ^ k := by
  have hdrop : (v * 100 + g) / 100 = v := by omega
  rw [pow_succ', ← Nat.div_div_eq_div_mul, hdrop]

theorem unpackBlock_eq_some_iff {v c : Nat} {gs : List Nat} :
    unpackBlock v c = some gs ↔
      v < 100 ^ c ∧ (List.range c).map (fun j => v / 100 ^ (c - 1 - j) % 100) = gs := by
  rw [unpackBlock, Option.ite_none_right_eq_some, Option.some.injEq]

/-- A group is the digits of a block of its own. -/
theorem unpackBlock_one {g : Nat} (hg : g ≤ 99) : unpackBlock g 1 = some [g] := by
  have hmod : g % 100 = g := by omega
  exact unpackBlock_eq_some_iff.2 ⟨by omega, by simpa using hmod⟩

/-- Appending a group to a block (R186) appends it to the block's digits. -/
theorem unpackBlock_append {v c g : Nat} {gs : List Nat} (hg : g ≤ 99)
    (h : unpackBlock v c = some gs) : unpackBlock (v * 100 + g) (c + 1) = some (gs ++ [g]) := by
  obtain ⟨hv, rfl⟩ := unpackBlock_eq_some_iff.1 h
  refine unpackBlock_eq_some_iff.2 ⟨by rw [pow_succ]; omega, ?_⟩
  rw [List.range_succ, List.map_append]
  congr 1
  · refine List.map_congr_left fun j hj => ?_
    have hexp : c + 1 - 1 - j = c - 1 - j + 1 := by
      have := List.mem_range.1 hj
      omega
    rw [hexp, append_div_pow_succ hg]
  · have hlast : (v * 100 + g) % 100 = g := by omega
    simpa using hlast

/-- R195: a scan loses no group: its blocks unpack to the digits of the accumulator and then the
groups to come. -/
theorem unpack_packScan {m : Int} {gs : List Nat} (hgs : GroupsBelow m gs) {acc cnt : Nat}
    {pre : List Nat} (hpre : unpackBlock acc cnt = some pre) :
    unpack (packScan m acc cnt gs) = some (pre ++ gs) := by
  induction gs generalizing acc cnt pre with
  | nil =>
    simp only [packScan]
    split
    next => simp [unpack, hpre]
    next h0 =>
      obtain rfl : cnt = 0 := by omega
      obtain ⟨-, rfl⟩ := unpackBlock_eq_some_iff.1 hpre
      rfl
  | cons g gs ih =>
    obtain ⟨⟨hg, -⟩, hgs⟩ := List.forall_mem_cons.1 hgs
    simp only [packScan]
    split
    next => simpa using ih hgs (unpackBlock_append hg hpre)
    next => simp [unpack, hpre, ih hgs (unpackBlock_one hg)]

/-! ### The scan is greedy (R193) -/

/-- The first of a block's groups. -/
def leadingGroup (b : Nat × Nat) : Nat := b.1 / 100 ^ (b.2 - 1)

theorem leadingGroup_one (g : Nat) : leadingGroup (g, 1) = g := Nat.div_one g

/-- Appending a group leaves the first one of a block that has one. -/
theorem leadingGroup_append {v c g : Nat} (hc : 0 < c) (hg : g ≤ 99) :
    leadingGroup (v * 100 + g, c + 1) = leadingGroup (v, c) := by
  obtain ⟨k, rfl⟩ := Nat.exists_eq_add_one.2 hc
  exact append_div_pow_succ hg k

/-- The first block of a scan begins as its accumulator does. -/
theorem packScan_head_leadingGroup {m : Int} {gs : List Nat} (hgs : GroupsBelow m gs)
    {acc cnt : Nat} (hcnt : 0 < cnt) {b : Nat × Nat} (hb : b ∈ (packScan m acc cnt gs).head?) :
    leadingGroup b = leadingGroup (acc, cnt) := by
  induction gs generalizing acc cnt with
  | nil =>
    rw [packScan, if_pos hcnt] at hb
    cases hb
    rfl
  | cons g gs ih =>
    obtain ⟨⟨hg, -⟩, hgs⟩ := List.forall_mem_cons.1 hgs
    simp only [packScan] at hb
    split at hb
    next => rw [ih hgs (Nat.succ_pos cnt) hb, leadingGroup_append hcnt hg]
    next => cases hb; rfl

/-- R193 for two blocks: the first one with the group that begins the second would reach the
modulus. -/
def GreedyPair (m : Int) (b b' : Nat × Nat) : Prop :=
  m ≤ ((b.1 * 100 + leadingGroup b' : Nat) : Int)

/-- R193: each block of a scan ends because the group that begins the next one did not fit. -/
theorem packScan_isChain_greedyPair {m : Int} {gs : List Nat} (hgs : GroupsBelow m gs)
    (acc cnt : Nat) : (packScan m acc cnt gs).IsChain (GreedyPair m) := by
  induction gs generalizing acc cnt with
  | nil =>
    simp only [packScan]
    split
    next => exact .singleton _
    next => exact .nil
  | cons g gs ih =>
    obtain ⟨-, hgs⟩ := List.forall_mem_cons.1 hgs
    simp only [packScan]
    split
    next => exact ih hgs _ _
    next hge =>
      refine List.isChain_cons.2 ⟨fun b hb => ?_, ih hgs _ _⟩
      rw [GreedyPair, packScan_head_leadingGroup hgs Nat.one_pos hb, leadingGroup_one]
      exact not_lt.1 hge

/-! ### The command (R187, R236) -/

theorem exec_pack (sc : Bool) (ngrp : Nat) (s : State) :
    exec (.pack sc ngrp) s =
      .next (s.completePack
        (packGroups s.params.lmax ngrp (s.packInput ngrp) (s.operandC sc))) := rfl

theorem State.packInput_of_le {s : State} {ngrp : Nat} (h : ngrp ≤ s.params.lmax) :
    s.packInput ngrp = s.groups ngrp := if_pos h

theorem State.groups_length (s : State) (ngrp : Nat) : (s.groups ngrp).length = ngrp := by
  simp [State.groups]

/-- A guard that fails PACK leaves no block (R187). -/
theorem exec_pack_of_guard {sc : Bool} {ngrp : Nat} {s : State} {sub : SubCause}
    (h : packGuard s.params.lmax ngrp (s.packInput ngrp) (s.operandC sc) = some sub) :
    exec (.pack sc ngrp) s = .next (s.failedPack sub) := by
  rw [exec_pack, packGroups_of_guard h]
  rfl

/-- With the guards passed, PACK completes with the scan's blocks (R187). -/
theorem exec_pack_of_groupsBelow {sc : Bool} {ngrp : Nat} {s : State} (hm : 25 < s.operandC sc)
    (hn : ngrp ≤ s.params.lmax) (hgs : GroupsBelow (s.operandC sc) (s.groups ngrp)) :
    exec (.pack sc ngrp) s =
      .next (s.completePack (.ok (packScan (s.operandC sc) 0 0 (s.groups ngrp)))) := by
  rw [exec_pack, State.packInput_of_le hn, packGroups_of_groupsBelow hm hn hgs]

/-- Settles O31: the four guards in their order, each on the groups PACK reads, and the scan when
all have passed. -/
theorem packCompletes : Obligations.PackCompletes := by
  rintro sc ngrp s m groups rfl rfl
  refine ⟨fun hm => ?_, fun hm hn => ?_, fun hm hn hg => ?_, fun hm hn hdig hg => ?_,
    fun hm hn hgs => ?_⟩
  · exact exec_pack_of_guard (packGuard_of_le hm)
  · exact exec_pack_of_guard (packGuard_of_lt_length hm hn)
  · refine exec_pack_of_guard (packGuard_of_digit hm hn ?_)
    rwa [State.packInput_of_le hn]
  · refine exec_pack_of_guard (packGuard_of_group hm hn ?_ ?_)
    all_goals rwa [State.packInput_of_le hn]
  · exact exec_pack_of_groupsBelow hm hn hgs

/-! ### The block table after a success (R194 to R196) -/

/-- A table entry as the block it holds (R25). -/
def Block.toPair (b : Block) : Nat × Nat := (b.val, b.cnt.toNat)

section
variable {sc : Bool} {ngrp : Nat} {s t : State} (hx : exec (.pack sc ngrp) s = .next t)
  (hok : t.status.err = .ok)
include hx hok

/-- A PACK that ends with `ERR = OK` has passed the guards and completed with the scan's blocks. -/
theorem exec_pack_ok :
    (25 < s.operandC sc ∧ ngrp ≤ s.params.lmax ∧ GroupsBelow (s.operandC sc) (s.groups ngrp)) ∧
      t = s.completePack (.ok (packScan (s.operandC sc) 0 0 (s.groups ngrp))) := by
  rw [exec_pack] at hx
  cases hx
  cases hp : packGroups s.params.lmax ngrp (s.packInput ngrp) (s.operandC sc) with
  | error f =>
    rw [hp] at hok
    exact absurd hok (packGroups_error_coded hp).1
  | ok bs =>
    obtain ⟨⟨hm, hn, hgs⟩, rfl⟩ := packGroups_ok hp
    rw [State.packInput_of_le hn] at hgs ⊢
    exact ⟨⟨hm, hn, hgs⟩, rfl⟩

/-- The guards that a PACK with `ERR = OK` has passed. -/
theorem exec_pack_ok_guards :
    25 < s.operandC sc ∧ ngrp ≤ s.params.lmax ∧ GroupsBelow (s.operandC sc) (s.groups ngrp) :=
  (exec_pack_ok hx hok).1

/-- R194, R196: what the guards give of the scan's blocks. -/
theorem exec_pack_ok_blocks :
    (packScan (s.operandC sc) 0 0 (s.groups ngrp)).length ≤ ngrp ∧
      ∀ b ∈ packScan (s.operandC sc) 0 0 (s.groups ngrp),
        (b.1 : Int) < s.operandC sc ∧ 1 ≤ b.2 ∧ b.2 ≤ ngrp ∧ b.1 < 100 ^ b.2 := by
  obtain ⟨hm, -, hgs⟩ := exec_pack_ok_guards hx hok
  simpa only [State.groups_length] using packScan_blocks hgs (by omega)

variable (hp : s.params.Legal)
include hp

/-- The number of groups fits a 16-bit field, for it is at most `LMAX` (R6, R187). -/
theorem exec_pack_ok_toNat_ofNat {n : Nat} (hn : n ≤ ngrp) : (BitVec.ofNat 16 n).toNat = n := by
  obtain ⟨-, hle, -⟩ := exec_pack_ok_guards hx hok
  obtain ⟨-, -, -, -, -, hlmax⟩ := hp
  rw [BitVec.toNat_ofNat, Nat.mod_eq_of_lt (by omega)]

/-- R187: the table holds the scan's blocks, no letter count cut off by its field. -/
theorem exec_pack_ok_table :
    t.blk.map Block.toPair = packScan (s.operandC sc) 0 0 (s.groups ngrp) := by
  have hblocks := (exec_pack_ok_blocks hx hok).2
  have hfit := fun n => exec_pack_ok_toNat_ofNat hx hok hp (n := n)
  obtain ⟨-, rfl⟩ := exec_pack_ok hx hok
  rw [State.completePack_ok_blk, List.map_map]
  refine (List.map_congr_left fun b hb => ?_).trans (List.map_id _)
  obtain ⟨-, -, hcnt, -⟩ := hblocks b hb
  exact Prod.ext rfl (hfit _ hcnt)

/-- R187: `NBLK` is the number of entries of the table. -/
theorem exec_pack_ok_nblk : t.nblk.toNat = t.blk.length := by
  have hfit := exec_pack_ok_toNat_ofNat hx hok hp (exec_pack_ok_blocks hx hok).1
  obtain ⟨-, rfl⟩ := exec_pack_ok hx hok
  rw [State.completePack_ok_nblk, State.completePack_ok_blk, List.length_map, hfit]

end

/-- Settles O32: the table's blocks are the scan's, which are so. -/
theorem packBlockInvariants : Obligations.PackBlockInvariants := by
  intro sc ngrp s t hp hx hok b hb
  have hmem := List.mem_map_of_mem (f := Block.toPair) hb
  rw [exec_pack_ok_table hx hok hp] at hmem
  obtain ⟨hv, hc, -, hd⟩ := (exec_pack_ok_blocks hx hok).2 _ hmem
  exact ⟨hv, hc, hd⟩

/-- Settles O33: the table unpacks as the scan does, whose accumulator is empty at first. -/
theorem unpackOfPack : Obligations.UnpackOfPack := by
  intro sc ngrp s t hp hx hok
  change unpack (t.blk.map Block.toPair) = some (s.groups ngrp)
  obtain ⟨-, -, hgs⟩ := exec_pack_ok_guards hx hok
  rw [exec_pack_ok_table hx hok hp]
  exact unpack_packScan hgs (pre := []) rfl

/-- Settles O34: neighbours in the table are neighbours in the scan. -/
theorem packIsGreedy : Obligations.PackIsGreedy := by
  intro sc ngrp s t j b b' hp hx hok hb hb'
  obtain ⟨-, -, hgs⟩ := exec_pack_ok_guards hx hok
  have hchain := packScan_isChain_greedyPair hgs 0 0
  rw [← exec_pack_ok_table hx hok hp, List.isChain_map] at hchain
  obtain ⟨hj, rfl⟩ := List.getElem?_eq_some_iff.1 hb'
  obtain ⟨_, rfl⟩ := List.getElem?_eq_some_iff.1 hb
  exact hchain.getElem j hj

/-- Settles O35: each block has a letter, and the letters are those of the groups. -/
theorem packCounts : Obligations.PackCounts := by
  intro sc ngrp s t hp hx hok
  have htab := exec_pack_ok_table hx hok hp
  have hlen : t.blk.length ≤ ngrp := by
    simpa [← htab] using (exec_pack_ok_blocks hx hok).1
  have hsum : (t.blk.map fun b => b.cnt.toNat).sum = ngrp := by
    have := packScan_sum (s.operandC sc) 0 0 (s.groups ngrp)
    rw [← htab, List.map_map, State.groups_length, Nat.zero_add] at this
    exact this
  obtain ⟨-, hle, -⟩ := exec_pack_ok_guards hx hok
  rw [exec_pack_ok_nblk hx hok hp]
  refine ⟨hlen, ⟨fun h0 => ?_, fun h0 => by omega⟩, hsum, rfl, hlen.trans hle⟩
  rw [← hsum, List.eq_nil_of_length_eq_zero h0]
  rfl

end Sys2Proof.Machine
end

section
/-! PROOFS. The family of spec/45_host_reference.md: the letters of a text (R209, R210), the host functions on the numbers they succeed on (R213, R215, R216), and the round trip of the pipeline (R218). -/

namespace Sys2Proof.Machine

/-! ### Letters and groups (R206, R209, R210) -/

theorem le_25_of_letterIndex {c : Char} {g : Nat} (h : letterIndex c = some g) : g ≤ 25 := by
  unfold letterIndex at h
  split at h
  next => cases h; omega
  next =>
    split at h
    · cases h; omega
    · cases h

/-- R190 and R192 cannot fail a text: its groups are letters, and the modulus is above them. -/
theorem groupsBelow_encodeText {m : Int} (hm : 25 < m) (text : List Char) :
    GroupsBelow m (encodeText text) := by
  intro g hg
  obtain ⟨c, -, hc⟩ := List.mem_filterMap.1 hg
  have := le_25_of_letterIndex hc
  omega

/-- The encoder drops characters and adds none. -/
theorem length_encodeText_le (text : List Char) : (encodeText text).length ≤ text.length :=
  List.length_filterMap_le _ _

theorem letterOf_letterIndex {c : Char} (h : 65 ≤ c.toNat ∧ c.toNat ≤ 90) :
    (letterIndex c).bind letterOf = some c := by
  obtain ⟨hlo, hhi⟩ := h
  have hle : c.toNat - 65 ≤ 25 := by omega
  rw [letterIndex, if_pos ⟨hlo, hhi⟩, Option.bind_some, letterOf, if_pos hle,
    Nat.add_sub_cancel' hlo, Char.ofNat_toNat]

/-- R210: decoding gives an uppercase text back. -/
theorem decodeGroups_encodeText {text : List Char}
    (h : ∀ ch ∈ text, 65 ≤ ch.toNat ∧ ch.toNat ≤ 90) : decodeGroups (encodeText text) = text := by
  rw [decodeGroups, encodeText, List.filterMap_filterMap,
    List.filterMap_congr fun ch hch => letterOf_letterIndex (h ch hch), List.filterMap_some]

/-! ### The host functions where they succeed (R213, R215, R216) -/

/-- R213: an exponent coprime to `phi` has an inverse. -/
theorem derivePrivateExponent_of_coprime {e phi : Nat} (hphi : 0 < phi)
    (he : Nat.Coprime e phi) : ∃ d : Nat, derivePrivateExponent e phi = .ok d ∧
      e * d ≡ 1 [MOD phi] := by
  obtain ⟨d, hd, -, hdvd⟩ := modinv_of_gcd_eq_one (a := e) (Int.natCast_pos.2 hphi) he
  refine ⟨d, by rw [derivePrivateExponent, hd], ?_⟩
  rw [← Int.natCast_modEq_iff]
  exact (Int.modEq_iff_dvd.2 (by exact_mod_cast hdvd)).symm

/-- A natural exponent raises each value and keeps each letter count. -/
theorem powBlocks_natCast (e : Nat) {n : Nat} (hn : 0 < n) (bs : List (Nat × Nat)) :
    powBlocks e n bs = .ok (bs.map (Prod.map (powMod n · e) id)) := by
  induction bs with
  | nil => rfl
  | cons b bs ih =>
    rw [powBlocks, modexp_natCast _ _ hn, ih]
    rfl

theorem encryptText_of_fits {lmax n : Nat} {text : List Char} (hn : 25 < n)
    (hlen : text.length ≤ lmax) (e : Nat) :
    encryptText lmax text e n =
      .ok ((packScan n 0 0 (encodeText text)).map (Prod.map (powMod n · e) id)) := by
  have hpack : pack lmax (encodeText text) n = .ok (packScan n 0 0 (encodeText text)) :=
    packGroups_of_groupsBelow (by omega) ((length_encodeText_le text).trans hlen)
      (groupsBelow_encodeText (by omega) text)
  rw [encryptText, hpack]
  dsimp only
  rw [powBlocks_natCast e (by omega)]

theorem decryptBlocks_of_unpack {cs bs : List (Nat × Nat)} {d n : Int} {gs : List Nat}
    (hpow : powBlocks d n cs = .ok bs) (hgs : unpack bs = some gs) :
    decryptBlocks cs d n = .ok (decodeGroups gs) := by
  rw [decryptBlocks, hpow]
  dsimp only
  rw [hgs]

/-! ### RSA correctness (R218) -/

/-- Fermat's little theorem in the form that asks nothing of the base. -/
theorem pow_modEq_self_of_prime {p k : Nat} (hp : p.Prime) (hk : 0 < k)
    (h : k ≡ 1 [MOD p - 1]) (v : Nat) : v ^ k ≡ v [MOD p] := by
  obtain ⟨j, hj⟩ := (Nat.modEq_iff_dvd' hk).1 h.symm
  obtain rfl : k = (p - 1) * j + 1 := by omega
  by_cases hv : p ∣ v
  · have hzero : v ≡ 0 [MOD p] := Nat.modEq_zero_iff_dvd.2 hv
    exact (Nat.modEq_zero_iff_dvd.2 (dvd_pow hv hk.ne')).trans hzero.symm
  · have hfermat : v ^ (p - 1) ≡ 1 [MOD p] := by
      rw [← Nat.totient_prime hp]
      exact Nat.ModEq.pow_totient (hp.coprime_iff_not_dvd.2 hv).symm
    rw [pow_succ, pow_mul]
    simpa using (hfermat.pow j).mul_right v

/-- With a modulus of two distinct primes, exponents inverse modulo `(p-1)(q-1)` undo each other on
every value, one that shares a factor with the modulus included. -/
theorem pow_modEq_self_of_primes {p q k : Nat} (hp : p.Prime) (hq : q.Prime) (hpq : p ≠ q)
    (hk : 0 < k) (h : k ≡ 1 [MOD (p - 1) * (q - 1)]) (v : Nat) : v ^ k ≡ v [MOD p * q] :=
  (Nat.modEq_and_modEq_iff_modEq_mul ((Nat.coprime_primes hp hq).2 hpq)).1
    ⟨pow_modEq_self_of_prime hp hk (h.of_mul_right _) v,
      pow_modEq_self_of_prime hq hk (h.of_mul_left _) v⟩

theorem powMod_powMod (n v : Nat) {e d : Nat} (he : 0 < e) (hd : 0 < d) :
    powMod n (powMod n v e) d = v ^ (e * d) % n := by
  rw [powMod_of_pos n v he, powMod_mod, powMod_of_pos _ _ hd, pow_mul]

/-- Exponents whose product is 1 modulo more than 1 are not 0, so `modexp` reduces (R148). -/
theorem pos_of_mul_modEq_one {e d k : Nat} (hk : 1 < k) (h : e * d ≡ 1 [MOD k]) :
    0 < e * d := by
  refine Nat.pos_of_ne_zero fun h0 => ?_
  rw [h0, Nat.ModEq, Nat.zero_mod, Nat.mod_eq_of_lt hk] at h
  cases h

/-- Two distinct primes are not both 2, so their `phi` is above 1. -/
theorem one_lt_phi {p q : Nat} (hp : p.Prime) (hq : q.Prime) (hpq : p ≠ q) :
    1 < (p - 1) * (q - 1) := by
  have hp2 := hp.two_le
  have hq2 := hq.two_le
  exact Nat.one_lt_mul_iff.2 ⟨by omega, by omega, by omega⟩

/-- Raising a list of blocks below the modulus to `e` and then to `d` gives the list back. -/
theorem powBlocks_inverse {p q e d : Nat} (hp : p.Prime) (hq : q.Prime) (hpq : p ≠ q)
    (hed : e * d ≡ 1 [MOD (p - 1) * (q - 1)]) {bs : List (Nat × Nat)}
    (hbs : ∀ b ∈ bs, b.1 < p * q) :
    powBlocks d (p * q : Nat) (bs.map (Prod.map (powMod (p * q) · e) id)) = .ok bs := by
  have hpos := pos_of_mul_modEq_one (one_lt_phi hp hq hpq) hed
  have hundo : ∀ b ∈ bs,
      (Prod.map (powMod (p * q) · d) id ∘ Prod.map (powMod (p * q) · e) id) b = b := by
    intro b hb
    have hmod := pow_modEq_self_of_primes hp hq hpq hpos hed b.1
    refine Prod.ext ?_ rfl
    calc powMod (p * q) (powMod (p * q) b.1 e) d
      _ = b.1 ^ (e * d) % (p * q) :=
        powMod_powMod _ _ (Nat.pos_of_mul_pos_right hpos) (Nat.pos_of_mul_pos_left hpos)
      _ = b.1 % (p * q) := hmod
      _ = b.1 := Nat.mod_eq_of_lt (hbs b hb)
  rw [powBlocks_natCast d (Nat.mul_pos hp.pos hq.pos), List.map_map, List.map_congr_left hundo,
    List.map_id']

/-- Settles O60: decryption gives the scan's blocks back, which unpack to the text's groups. -/
theorem rsaRoundTrip : Obligations.RsaRoundTrip := by
  intro p q e lmax text hp hq hpq he hn hlen htext
  have hphi := one_lt_phi hp hq hpq
  obtain ⟨d, hd, hed⟩ := derivePrivateExponent_of_coprime (by omega) he
  have hgs : GroupsBelow (p * q : Nat) (encodeText text) := groupsBelow_encodeText (by omega) text
  have hbs : ∀ b ∈ packScan (p * q : Nat) 0 0 (encodeText text), b.1 < p * q := fun b hb => by
    obtain ⟨hlt, -⟩ := (packScan_blocks hgs (by omega)).2 b hb
    exact Int.ofNat_lt.1 hlt
  refine ⟨d, _, hd, encryptText_of_fits hn hlen e, ?_⟩
  rw [decryptBlocks_of_unpack (powBlocks_inverse hp hq hpq hed hbs)
    (unpack_packScan hgs (pre := []) rfl), List.nil_append, decodeGroups_encodeText htext]

end Sys2Proof.Machine
end

section
/-! PROOFS. The family of spec/60_exceptions.md: completion and what it leaves alone (R236, R237, R238), acceptance (R235), and the interrupt level (R243). -/

namespace Sys2Proof.Machine

/-! ### What a step does outside `STATUS` (R238, R243) -/

section
variable {s t : State}

/-- The engine's step touches neither an operand, nor a digit, nor `IE` (R44, R238). -/
theorem engineStep_frame (h : engineStep s = .next t) :
    t.opa = s.opa ∧ t.opb = s.opb ∧ t.opc = s.opc ∧ t.dig = s.dig ∧ t.ie = s.ie := by
  rcases engineStep_cases h with rfl | ⟨-, -, i, -, hx⟩ | ⟨-, -, -, -, rfl⟩
  · exact ⟨rfl, rfl, rfl, rfl, rfl⟩
  · obtain ⟨⟨-, ha, hb, hc, -, hd, -, hie, -⟩, -⟩ := commandFrame i s t hx
    exact ⟨ha, hb, hc, hd, hie⟩
  · exact ⟨rfl, rfl, rfl, rfl, rfl⟩

/-- The moves of a step by what they can touch: the engine's, a full-word write to a location, hard
reset, and the moves that reach only the bus, the script, the stream and `rst_n`. -/
theorem step_moves (h : step s = .next t) :
    (∃ l, engineStep (s.withInputs l) = .next t) ∨
    (∃ loc v l, s.nextWrites loc v ∧
      t = (writeLoc loc v (s.withInputs l)).reply (.write .okay)) ∨
    (s.nextHardResets ∧ ∃ l, t = (s.withInputs l).hardReset) ∨
    (∃ l r n ws up, t = { s with inputs := l, bus := r, freeCtr := n, rng := ws, rstN := up }) := by
  rcases step_cases h with ⟨l, -, he⟩ | ⟨off, l, -, -, rfl⟩ | ⟨off, strobes, v, l, -, hi, rfl⟩ |
    ⟨w, l, -, rfl⟩ | ⟨l, hi, rfl⟩ | ⟨l, -, rfl⟩ | ⟨l, -, -, rfl⟩
  · exact .inl ⟨l, he⟩
  · obtain ⟨r, n, hs⟩ := busRead_frame off (s.withInputs l)
    exact .inr (.inr (.inr ⟨_, _, _, _, _, hs⟩))
  · rcases busWrite_cases off strobes v (s.withInputs l) with hs | ⟨loc, hl, rfl, hs⟩
    · exact .inr (.inr (.inr ⟨_, _, _, _, _, hs⟩))
    · exact .inr (.inl ⟨loc, v, l, ⟨off, l, hi, hl⟩, hs⟩)
  · exact .inr (.inr (.inr ⟨_, _, _, _, _, rfl⟩))
  · exact .inr (.inr (.inl ⟨⟨l, hi⟩, l, rfl⟩))
  · exact .inr (.inr (.inr ⟨_, _, _, _, _, rfl⟩))
  · exact .inr (.inr (.inr ⟨_, _, _, _, _, rfl⟩))

/-- A write changes an operand or the digits only while idle, and at a word of that register
(R66, R72). -/
theorem writeLoc_operands (l : Loc) (v : Word) (s : State) :
    ((writeLoc l v s).opa ≠ s.opa → s.status.busy = false ∧ ∃ i, l = .opa i) ∧
    ((writeLoc l v s).opb ≠ s.opb → s.status.busy = false ∧ ∃ i, l = .opb i) ∧
    ((writeLoc l v s).opc ≠ s.opc → s.status.busy = false ∧ ∃ i, l = .opc i) ∧
    ((writeLoc l v s).dig ≠ s.dig → s.status.busy = false ∧ ∃ i, l = .dig i) := by
  rcases writeLoc_cases l v s with ⟨-, -, hs⟩ | ⟨-, -, hs⟩ | ⟨-, hs⟩ | ⟨-, -, hs⟩ |
    ⟨-, -, hs⟩ | ⟨-, hs⟩ | ⟨i, hl, hb, hs⟩ | ⟨i, hl, hb, hs⟩ | ⟨i, hl, hb, hs⟩ |
    ⟨k, hl, hb, hs⟩ | ⟨-, hs⟩ <;> rw [hs]
  rotate_left 6
  · exact ⟨fun _ => ⟨hb, i, hl⟩, absurd rfl, absurd rfl, absurd rfl⟩
  · exact ⟨absurd rfl, fun _ => ⟨hb, i, hl⟩, absurd rfl, absurd rfl⟩
  · exact ⟨absurd rfl, absurd rfl, fun _ => ⟨hb, i, hl⟩, absurd rfl⟩
  · exact ⟨absurd rfl, absurd rfl, absurd rfl, fun _ => ⟨hb, k, hl⟩⟩
  all_goals exact ⟨absurd rfl, absurd rfl, absurd rfl, absurd rfl⟩

end

/-- Settles O38: of the moves of a step, the engine's leaves the operands and the digits alone, a
write reaches one register's word while idle, and beside it only hard reset writes them. -/
theorem operandsChangeOnlyByIdleWrites : Obligations.OperandsChangeOnlyByIdleWrites := by
  intro s t h
  rcases step_moves h with ⟨l, he⟩ | ⟨loc, v, l, hw, rfl⟩ | ⟨hr, -⟩ | ⟨_, _, _, _, _, rfl⟩
  · obtain ⟨ha, hb, hc, hd, -⟩ := engineStep_frame he
    exact ⟨absurd ha, absurd hb, absurd hc, absurd hd⟩
  · obtain ⟨ha, hb, hc, hd⟩ := writeLoc_operands loc v (s.withInputs l)
    have hwrite {mk : Nat → Loc} (hm : s.status.busy = false ∧ ∃ i, loc = mk i) :
        (s.status.busy = false ∧ ∃ i v, s.nextWrites (mk i) v) ∨ s.nextHardResets := by
      obtain ⟨hidle, i, rfl⟩ := hm
      exact .inl ⟨hidle, i, v, hw⟩
    exact ⟨hwrite ∘ ha, hwrite ∘ hb, hwrite ∘ hc, hwrite ∘ hd⟩
  · exact ⟨fun _ => .inr hr, fun _ => .inr hr, fun _ => .inr hr, fun _ => .inr hr⟩
  · exact ⟨absurd rfl, absurd rfl, absurd rfl, absurd rfl⟩

/-! ### Every command completes or waits (R236, R276) -/

section
variable {s t : State}

/-- A command always has a next state. -/
theorem exists_exec_eq_next (i : Instr) (s : State) : ∃ t, exec i s = .next t := by
  cases i with
  | mrprime sa rounds => exact ⟨_, exec_mrprime sa rounds s⟩
  | xgcd | modinv | modexp | pack => exact ⟨_, rfl⟩

/-- The command is complete, with `OVR` as in `s` and no result if it failed (R33, R236). -/
def State.CompletedFrom (s t : State) : Prop :=
  t.status.busy = false ∧ t.status.done = true ∧ t.status.ovr = s.status.ovr ∧
    (t.status.err ≠ .ok → t.res0 = 0 ∧ t.res1 = 0 ∧ t.res2 = 0 ∧
      t.status.prime = false ∧ t.status.sx = false ∧ t.status.sy = false)

theorem State.completedFrom_complete (s : State) (err : ErrKind) (sub : SubCause) (r : Results) :
    s.CompletedFrom (s.complete err sub r) := by
  refine ⟨rfl, rfl, rfl, fun (herr : err ≠ .ok) => ?_⟩
  simp [Status.completed, Results.kept_of_ne_ok r herr]

/-- A waiting MRPRIME has taken every word offered, and counted them (R81, R276). -/
theorem State.mrWait_all (s : State) :
    s.mrWait s.rng.length = { s with
      rng := [], rpos := s.rpos + s.rng.length, mrDrawn := s.mrDrawn + s.rng.length } := by
  simp only [State.mrWait, State.takeWords, List.drop_length]

end

/-- Settles O9: three of the four updates of a command are completions; the fourth is MRPRIME's
waiting, which takes all the words there are. -/
theorem everyCommandCompletesOrWaits : Obligations.EveryCommandCompletesOrWaits := by
  intro i s hb
  obtain ⟨t, ht⟩ := exists_exec_eq_next i s
  refine ⟨t, ht, ?_⟩
  rcases exec_updates ht with ⟨err, sub, r, rfl⟩ | ⟨_, _, err, sub, _, _, -, rfl⟩ |
    ⟨_, _, v, k, -, rfl⟩ | ⟨sa, rounds, k, rfl, rfl⟩
  · exact .inl (s.completedFrom_complete err sub r)
  · exact .inl (s.completedFrom_complete err sub {})
  · exact .inl (s.completedFrom_complete .ok .none (mrResults v))
  · obtain ⟨-, hall⟩ := exec_mrprime_busy ht hb
    exact .inr ⟨sa, rounds, rfl, hall.trans s.mrWait_all⟩

/-! ### The interrupt level (R243) -/

section
variable {s t : State}

theorem State.irq_eq_true_iff : s.irq = true ↔ s.ie = true ∧ s.status.done = true :=
  Bool.and_eq_true_iff

theorem State.irq_of_not_ie (h : s.ie = false) : s.irq = false := by
  rw [State.irq, h, Bool.false_and]

theorem State.irq_of_not_done (h : s.status.done = false) : s.irq = false := by
  rw [State.irq, h, Bool.and_false]

/-- Everything a write can do to `IE`: only a write of `CTRL` reaches it (R34). -/
theorem writeLoc_ie (l : Loc) (v : Word) (s : State) :
    (writeLoc l v s).ie = s.ie ∨
    (l = .ctrl ∧ v.getLsbD 1 = false ∧ (writeLoc l v s).ie = v.getLsbD 0 ∧
      (writeLoc l v s).status = s.status) ∨
    (l = .ctrl ∧ v.getLsbD 1 = true ∧ (writeLoc l v s).ie = false) := by
  rcases writeLoc_cases l v s with ⟨-, -, hs⟩ | ⟨-, -, hs⟩ | ⟨-, hs⟩ | ⟨hl, hv, hs⟩ |
    ⟨hl, hv, hs⟩ | ⟨-, hs⟩ | ⟨i, -, -, hs⟩ | ⟨i, -, -, hs⟩ | ⟨i, -, -, hs⟩ | ⟨k, -, -, hs⟩ |
    ⟨-, hs⟩ <;> rw [hs]
  rotate_left 3
  · exact .inr (.inr ⟨hl, hv, rfl⟩)
  · exact .inr (.inl ⟨hl, hv, rfl, rfl⟩)
  all_goals exact .inl rfl

/-- Everything a step can do to `IE`: a write of `CTRL` sets it and a reset clears it (R34, R43). -/
theorem step_ie (h : step s = .next t) :
    t.ie = s.ie ∨
    (∃ v, s.nextWrites .ctrl v ∧ v.getLsbD 1 = false ∧ t.ie = v.getLsbD 0 ∧
      t.status = s.status) ∨
    (s.nextResets ∧ t.ie = false) := by
  rcases step_moves h with ⟨l, he⟩ | ⟨loc, v, l, hw, rfl⟩ | ⟨hr, l, rfl⟩ | ⟨_, _, _, _, _, rfl⟩
  · obtain ⟨-, -, -, -, hie⟩ := engineStep_frame he
    exact .inl hie
  · rcases writeLoc_ie loc v (s.withInputs l) with hie | ⟨rfl, hv, hie, hst⟩ | ⟨rfl, hv, hie⟩
    · exact .inl hie
    · exact .inr (.inl ⟨v, hw, hv, hie, hst⟩)
    · exact .inr (.inr ⟨.inl ⟨v, hw, hv⟩, hie⟩)
  · exact .inr (.inr ⟨.inr hr, rfl⟩)
  · exact .inl rfl

/-- A write of `CTRL` without `SRST` sets `IE` and leaves `STATUS` alone (R34). -/
theorem step_of_ctrl_write {v : Word} (h : step s = .next t) (hw : s.nextWrites .ctrl v)
    (hv : v.getLsbD 1 = false) : t.ie = v.getLsbD 0 ∧ t.status = s.status := by
  obtain ⟨l, rfl⟩ := step_of_nextWrites hw h
  rw [writeLoc, writeCtrl_of_noReset hv]
  exact ⟨rfl, rfl⟩

/-- A write of `CTRL` with `SRST` is a soft reset, whatever its other bits (R34, R262). -/
theorem writeCtrl_of_reset {v : Word} (hv : v.getLsbD 1 = true) : writeCtrl v s = s.softReset :=
  if_pos hv

/-- The fall of `rst_n` is a hard reset (R260). -/
theorem step_of_rstAssert {l : List Input} (hi : s.inputs = .rstAssert :: l) :
    step s = .next (s.withInputs l).hardReset := by
  simp only [step, hi, inputStep]

/-- Either reset clears `IE` (R43, R262). -/
theorem ie_eq_false_of_nextResets (h : step s = .next t) (hr : s.nextResets) : t.ie = false := by
  rcases hr with ⟨v, hw, hv⟩ | ⟨l, hi⟩
  · obtain ⟨l, rfl⟩ := step_of_nextWrites hw h
    rw [writeLoc, writeCtrl_of_reset hv]
    rfl
  · cases h.symm.trans (step_of_rstAssert hi)
    rfl

/-- A write of `STATUS` with bit 1 clears `DONE` (R27). -/
theorem done_eq_false_of_status_write {v : Word} (h : step s = .next t)
    (hw : s.nextWrites .status v) (hv : v.getLsbD 1 = true) : t.status.done = false := by
  obtain ⟨l, rfl⟩ := step_of_nextWrites hw h
  simp [writeLoc, Status.writeClear, hv]

/-- Idle, a write of `CMD` is an acceptance, which clears `DONE` (R235). -/
theorem done_eq_false_of_acceptance {v : Word} (h : step s = .next t) (hb : s.status.busy = false)
    (hw : s.nextWrites .cmd v) : t.status.done = false := by
  obtain ⟨l, rfl⟩ := step_of_nextWrites hw h
  rw [writeLoc, State.unlessBusy_of_idle (s := s.withInputs l) _ hb]
  rfl

/-- `DONE` rises only by a completion, which ends `BUSY` (R28, R236). -/
theorem busy_falls_of_done_rises (h : step s = .next t) (h0 : s.status.done = false)
    (h1 : t.status.done = true) : s.status.busy = true ∧ t.status.busy = false := by
  rcases step_status h with hs | ⟨hb, _, _, _, hs⟩ | ⟨-, -, hs⟩ | ⟨_, -, -, hs⟩ | ⟨_, -, hs⟩ |
    ⟨-, hs⟩ <;> rw [hs] at h1 ⊢
  · simp [h0] at h1
  · exact ⟨hb, rfl⟩
  · simp [Status.overrun, h0] at h1
  · cases h1
  · simp [Status.writeClear, h0] at h1
  · cases h1

/-- `DONE` falls only by a write of `STATUS` with bit 1, an acceptance, or a reset (R243). -/
theorem cause_of_done_falls (h : step s = .next t) (h1 : s.status.done = true)
    (h0 : t.status.done = false) :
    (∃ v, s.nextWrites .status v ∧ v.getLsbD 1 = true) ∨
    (s.status.busy = false ∧ ∃ v, s.nextWrites .cmd v) ∨ s.nextResets := by
  rcases step_status h with hs | ⟨-, _, _, _, hs⟩ | ⟨-, -, hs⟩ | ⟨v, hw, -, hs⟩ | ⟨v, hw, hs⟩ |
    ⟨hr, hs⟩
  · simp [hs, h1] at h0
  · simp [hs, Status.completed] at h0
  · simp [hs, Status.overrun, h1] at h0
  · refine .inr (.inl ⟨?_, v, hw⟩)
    by_contra hb
    obtain ⟨l, rfl⟩ := step_of_nextWrites hw h
    rw [writeLoc_of_held (s := s.withInputs l) v rfl (Bool.eq_true_of_not_eq_false hb)] at h0
    simp [State.overrun, Status.overrun, h1] at h0
  · refine .inl ⟨v, hw, ?_⟩
    simpa [hs, Status.writeClear, h1] using h0
  · exact .inr (.inr hr)

/-- R243: what raises `irq`. -/
theorem irq_rises_iff (h : step s = .next t) (hq : s.irq = false) :
    t.irq = true ↔
      (s.status.busy = true ∧ t.status.busy = false ∧ s.ie = true ∧ ¬ s.nextResets) ∨
      (s.status.done = true ∧
        ∃ v, s.nextWrites .ctrl v ∧ v.getLsbD 0 = true ∧ v.getLsbD 1 = false) := by
  rw [State.irq_eq_true_iff]
  constructor
  · rintro ⟨hie, hdone⟩
    rcases step_ie h with hkeep | ⟨v, hw, hv, hset, hst⟩ | ⟨-, hoff⟩
    · rw [hkeep] at hie
      have h0 : s.status.done = false := by simpa [State.irq, hie] using hq
      obtain ⟨hb, hidle⟩ := busy_falls_of_done_rises h h0 hdone
      refine .inl ⟨hb, hidle, hie, fun hr => ?_⟩
      simp [ie_eq_false_of_nextResets h hr, hie] at hkeep
    · exact .inr ⟨hst ▸ hdone, v, hw, hset ▸ hie, hv⟩
    · simp [hoff] at hie
  · rintro (⟨hb, hidle, hie, hr⟩ | ⟨hdone, v, hw, hset, hv⟩)
    · refine ⟨?_, ((busyChangesOnly s t h).2 hb hidle).resolve_right hr⟩
      rcases step_ie h with hkeep | ⟨v, -, -, -, hst⟩ | ⟨hr', -⟩
      · exact hkeep.trans hie
      · simp [hst, hb] at hidle
      · exact absurd hr' hr
    · obtain ⟨hie, hst⟩ := step_of_ctrl_write h hw hv
      exact ⟨hie.trans hset, by rw [hst, hdone]⟩

/-- R243: what lowers `irq`. -/
theorem irq_falls_iff (h : step s = .next t) (hq : s.irq = true) :
    t.irq = false ↔
      (∃ v, s.nextWrites .status v ∧ v.getLsbD 1 = true) ∨
      (s.status.busy = false ∧ ∃ v, s.nextWrites .cmd v) ∨
      (∃ v, s.nextWrites .ctrl v ∧ v.getLsbD 0 = false) ∨ s.nextResets := by
  obtain ⟨hie, hdone⟩ := State.irq_eq_true_iff.1 hq
  constructor
  · intro hlow
    rcases step_ie h with hkeep | ⟨v, hw, -, hset, hst⟩ | ⟨hr, -⟩
    · have h0 : t.status.done = false := by simpa [State.irq, hkeep, hie] using hlow
      rcases cause_of_done_falls h hdone h0 with hw | hw | hr
      · exact .inl hw
      · exact .inr (.inl hw)
      · exact .inr (.inr (.inr hr))
    · have hv : v.getLsbD 0 = false := by simpa [State.irq, hset, hst, hdone] using hlow
      exact .inr (.inr (.inl ⟨v, hw, hv⟩))
    · exact .inr (.inr (.inr hr))
  · rintro (⟨v, hw, hv⟩ | ⟨hb, v, hw⟩ | ⟨v, hw, hv⟩ | hr)
    · exact State.irq_of_not_done (done_eq_false_of_status_write h hw hv)
    · exact State.irq_of_not_done (done_eq_false_of_acceptance h hb hw)
    · cases hrst : v.getLsbD 1 with
      | false => exact State.irq_of_not_ie ((step_of_ctrl_write h hw hrst).1.trans hv)
      | true => exact State.irq_of_not_ie (ie_eq_false_of_nextResets h (.inl ⟨v, hw, hrst⟩))
    · exact State.irq_of_not_ie (ie_eq_false_of_nextResets h hr)

end

/-- Settles O54: the level by its definition, its rise and its fall by what a step can do to `IE`
and to `DONE`. -/
theorem interruptLevel : Obligations.InterruptLevel :=
  fun _ _ h => ⟨State.irq_eq_true_iff, irq_rises_iff h, irq_falls_iff h⟩

/-! ### Acceptance, and the illegal word (R235, R237) -/

/-- Settles O8: at each of the four turns of the engine, its step completes the illegal word. -/
theorem illegalWordCompletes : Obligations.IllegalWordCompletes := by
  intro s why hr hb hd
  have hill := engineStep_of_illegal hr hb hd
  refine ⟨fun hi => ?_, fun l hi => ?_, fun l hi => ?_, fun l hi hq => ?_⟩
  · exact (step_of_nil hi).trans hill
  · exact (step_of_engine hi).trans (engineStep_of_illegal (s := s.withInputs l) hr hb hd)
  · exact (step_of_wait hi hr hb).trans hill
  · exact (step_of_waitIrq hi hq).trans hill

/-- Settles O53: the step is the word's acceptance and its `OKAY`. -/
theorem acceptanceOfCommandWord : Obligations.AcceptanceOfCommandWord :=
  fun _ _ _ hr hb hi => step_of_idle_write_cmd hr hb hi

end Sys2Proof.Machine
end

section
/-! PROOFS. The family of spec/70_reset_and_hazards.md: soft and hard reset (R260 to R263), and an MRPRIME that waits for words (R276). -/

namespace Sys2Proof.Machine

/-! ### Waiting for words (R81, R276) -/

/-- With fewer words than rounds and every word passing its round, the next round has no word. -/
theorem mrRounds_verdict_eq_none {n k : Nat} {ws : List Nat}
    (hpass : ∀ w ∈ ws, wordPasses n w = true) (hlen : ws.length < k) :
    (mrRounds n k ws).verdict = none := by
  induction ws generalizing k with
  | nil =>
    obtain ⟨k, rfl⟩ := Nat.exists_eq_add_one.2 hlen
    rfl
  | cons w ws ih =>
    obtain ⟨k, rfl⟩ := Nat.exists_eq_add_one.2 (Nat.zero_lt_of_lt hlen)
    obtain ⟨hw, hws⟩ := List.forall_mem_cons.1 hpass
    rw [mrRounds_cons_of_passes hw]
    exact ih hws (Nat.lt_of_succ_lt_succ hlen)

/-- An MRPRIME without a verdict takes every word offered and waits. -/
theorem exec_mrprime_of_waits {sa : Bool} {rounds : Nat} {s : State}
    (h : (mrprime (s.operandA sa) (rounds - s.mrDrawn) s.rng).verdict = none) :
    exec (.mrprime sa rounds) s = .next (s.mrWait s.rng.length) := by
  have hrun : mrprime (s.operandA sa) (rounds - s.mrDrawn) s.rng = ⟨none, s.rng.length⟩ := by
    rw [← h, ← mrprime_draws_of_waits h]
  rw [exec_mrprime, hrun, State.mrAfter]

/-- Settles O23: the words all pass and run out before the rounds do, so there is no verdict. -/
theorem mrprimeWaitsForWords : Obligations.MrprimeWaitsForWords := by
  intro sa rounds s hdrawn hdet hpass hlen
  have hnone : (mrprime (s.operandA sa) (rounds - s.mrDrawn) s.rng).verdict = none := by
    rw [hdrawn, Nat.sub_zero, mrprime_of_rounds (n := s.operandA sa) hdet]
    exact mrRounds_verdict_eq_none hpass hlen
  rw [exec_mrprime_of_waits hnone, State.mrWait_all, hdrawn, Nat.zero_add]

/-! ### Reset (R260 to R263) -/

section
variable {s : State} {l : List Input}

/-- A full-word write of `CTRL` with `SRST` is a soft reset, answered `OKAY` (R34, R262). -/
theorem step_of_write_srst {off : BitVec 13} {v : Word} (hr : s.rstN = true)
    (hi : s.inputs = .write off 0xF v :: l) (hl : accessLoc s.params off = some .ctrl)
    (hv : v.getLsbD 1 = true) :
    step s = .next ((s.withInputs l).softReset.reply (.write .okay)) := by
  rw [step_of_write hr hi hl, writeLoc, writeCtrl_of_reset hv]

/-- A read is refused while `rst_n` is low (R260, U23). -/
theorem step_of_read_in_reset {off : BitVec 13} (hr : s.rstN = false)
    (hi : s.inputs = .read off :: l) : step s = .refused .accessInReset := by
  simp [step, hi, inputStep, hostStep, hr]

/-- A write is refused while `rst_n` is low, whatever its strobes (R260, U23). -/
theorem step_of_write_in_reset {off : BitVec 13} {strobes : BitVec 4} {v : Word}
    (hr : s.rstN = false) (hi : s.inputs = .write off strobes v :: l) :
    step s = .refused .accessInReset := by
  simp [step, hi, inputStep, hostStep, hr]

/-- The release of `rst_n` reaches only its level and the script (R260). -/
theorem step_of_rstRelease (hi : s.inputs = .rstRelease :: l) :
    step s = .next { s with rstN := true, inputs := l } := by
  simp only [step, hi, inputStep, State.releaseReset, State.withInputs]

end

/-- Settles O55: the step is the soft reset and its `OKAY`, whatever was running. -/
theorem softReset : Obligations.SoftReset := by
  intro s off v l hr hi hl hv
  exact ⟨_, step_of_write_srst hr hi hl hv,
    rfl, rfl, rfl, rfl, rfl, rfl, State.irq_of_not_ie rfl,
    rfl, rfl, rfl, rfl, rfl, rfl, rfl, hr, rfl, rfl⟩

/-- Settles O56: the step is the hard reset, which leaves `rst_n` low; the three moves after it go
by that level. -/
theorem hardReset : Obligations.HardReset := by
  intro s l hi
  exact ⟨_, step_of_rstAssert hi,
    rfl, rfl, rfl, rfl, rfl, rfl, State.irq_of_not_ie rfl,
    rfl, rfl, rfl, rfl,
    fun _ _ => step_of_read_in_reset rfl rfl,
    fun _ _ _ _ => step_of_write_in_reset rfl rfl,
    fun _ => step_of_rstRelease rfl⟩

end Sys2Proof.Machine
end
